-- ==== Sys2Proof/Word.lean ====
section
/-!
DEFINITION. The words of the block: a byte, a bus address, and the two formats in which the environment presents a stimulus
(spec/30_encoding.md rules R80, R83 and R84; spec/00_scope.md rules R7 and R8).
-/

namespace Sys2Proof

/-- A bus datum, 8 bits; bit 0 is the least significant (R8). -/
abbrev Byte := BitVec 8

/-- A bus address, 16 bits, so that no address outside the space can be written down (R60, R61). -/
abbrev Addr := BitVec 16

/-- Format `BUS` (R80): the three fields of one bus transaction; `rw` is 0 for a read and 1 for a write, and `data` is
ignored when `rw` is 0. -/
structure Transaction where
  rw   : BitVec 1
  addr : Addr
  data : Byte
deriving DecidableEq, Repr

/-- Format `EVT` (R84): the event code `E` and the one operand (the byte of `RX`, the count of `ADV`, 0 for `RESET`). The
operand is a natural number because the count of `ADV` has no fixed width. -/
structure EventWord where
  code    : BitVec 2
  operand : Nat
deriving DecidableEq, Repr

/-- One stimulus as the environment presents it (R7): a bus transaction, or an event that does not come over the bus. -/
inductive Stimulus where
  | bus   (t : Transaction)
  | event (e : EventWord)
deriving DecidableEq, Repr

/-- The local operation word `L` = sel, rw, off (R83), with the address and data lines that stand beside it. -/
structure LocalWord where
  bits : BitVec 5
  addr : Addr
  data : Byte
deriving DecidableEq, Repr

end Sys2Proof
end

