-- ==== Sys2Proof/Machine/Flags.lean ====
section
/-!
DEFINITION. The fields of the control and status registers and every computation on them (spec/10_state.md rules R23, R24 and
R28). The positions are the spec's own choices D6, D7 and D8 (DESIGN CHOICE, unsafe, log 18).
-/

namespace Sys2Proof.Machine

/-! ### `uart.control` (R23) -/

/-- `BAUD`, bits 1:0. -/
def uartBaud (control : Byte) : BitVec 2 := control.extractLsb' 0 2
/-- `MODE`, bits 4:2; storage only (R134). -/
def uartMode (control : Byte) : BitVec 3 := control.extractLsb' 2 3
/-- `RTS`, bits 6:5; storage only (R134). -/
def uartRts (control : Byte) : BitVec 2 := control.extractLsb' 5 2
/-- `RIE`, bit 7: receive-interrupt-enable. -/
def uartRie (control : Byte) : Bool := control.getLsbD 7

/-- The master reset pattern: both baud-select bits of the written byte are set (R125). -/
def isMasterReset (data : Byte) : Bool := decide (uartBaud data = 0b11)
/-- What a master reset stores in `uart.control`: bits 7:2 as written, bits 1:0 cleared (R125). -/
def masterResetControl (data : Byte) : Byte := data &&& 0xFC
/-- What a master reset stores in `uart.status`: `TXE` set, all else clear (R125). -/
def masterResetStatus : Byte := 0x02

/-! ### `uart.status` (R24) -/

/-- `RDA`, bit 0: receive-data-available. -/
def uartRda (status : Byte) : Bool := status.getLsbD 0
/-- `TXE`, bit 1: transmit-empty. -/
def uartTxe (status : Byte) : Bool := status.getLsbD 1
/-- `DCD`, bit 2: carrier-detect; storage only (R134). -/
def uartDcd (status : Byte) : Bool := status.getLsbD 2
/-- `CTS`, bit 3: clear-to-send; storage only (R134). -/
def uartCts (status : Byte) : Bool := status.getLsbD 3
/-- `RXERR`, bit 4: receive-error; storage only (R134). -/
def uartRxerr (status : Byte) : Bool := status.getLsbD 4
/-- `TXERR`, bit 5: transmit-error; storage only (R134). -/
def uartTxerr (status : Byte) : Bool := status.getLsbD 5
/-- `PERR`, bit 6: parity-error; storage only (R134). -/
def uartPerr (status : Byte) : Bool := status.getLsbD 6
/-- `IRQF`, bit 7: interrupt-flag; storage only (R134). -/
def uartIrqf (status : Byte) : Bool := status.getLsbD 7

/-- `RDA` set, the other bits unchanged (R129). -/
def setRda (status : Byte) : Byte := status ||| 0x01
/-- `RDA` cleared, the other bits unchanged (R124). -/
def clearRda (status : Byte) : Byte := status &&& ~~~(0x01 : Byte)
/-- `TXE` set, the other bits unchanged (R126). -/
def setTxe (status : Byte) : Byte := status ||| 0x02
/-- `TXE` cleared, the other bits unchanged (R126). -/
def clearTxe (status : Byte) : Byte := status &&& ~~~(0x02 : Byte)

/-! ### `timer.control` (R28) -/

/-- `PSL`, bits 2:0. -/
def timerPsl (control : Byte) : BitVec 3 := control.extractLsb' 0 3
/-- `PRST`, bit 3: prescaler reset. -/
def timerPrst (control : Byte) : Bool := control.getLsbD 3
/-- `TMODE`, bits 5:4; storage only (R160). -/
def timerTmode (control : Byte) : BitVec 2 := control.extractLsb' 4 2
/-- `ID`, bit 6: interrupt-disable. -/
def timerId (control : Byte) : Bool := control.getLsbD 6
/-- `IF`, bit 7: interrupt-flag. -/
def timerIf (control : Byte) : Bool := control.getLsbD 7

/-- `IF` set, the other bits unchanged (R155). -/
def setTimerIf (control : Byte) : Byte := control ||| 0x80
/-- What a bus read of `timer.control` returns: bit 3 reads 0 (R152). -/
def timerControlRead (control : Byte) : Byte := control &&& 0xF7
/-- What a bus write stores in `timer.control`: bits 7:4 as written, bits 3:0 the constant (R154). -/
def timerControlStore (psel data : Byte) : Byte := (data &&& 0xF0) ||| psel

end Sys2Proof.Machine
end

