-- ==== Sys2Proof/Machine/Cells.lean ====
section
/-!
DEFINITION. Sparse byte arrays: lists of (address, byte) cells in one canonical form, used for plain memory and for the
initial image (spec/10_state.md rule R30, spec/20_memory.md rules R60 and R63).
-/

namespace Sys2Proof

/-- The number of addresses of the one address space (R60; `MEM_SIZE`, the spec's decision D2). -/
def memSize : Nat := 0x10000

/-- The byte listed at an address, if one is. -/
def cellsLookup : List Host.Cell → Nat → Option Byte
  | [], _ => none
  | (b, v) :: rest, a => if a = b then some v else cellsLookup rest a

/-- The byte an array holds at an address; `dflt` says what an unlisted address reads as. -/
def cellsGet (dflt : Nat → Byte) (m : List Host.Cell) (a : Nat) : Byte :=
  (cellsLookup m a).getD (dflt a)

/-- The array without the entry at an address. -/
def cellsErase (a : Nat) : List Host.Cell → List Host.Cell
  | [] => []
  | (b, w) :: rest => if a = b then cellsErase a rest else (b, w) :: cellsErase a rest

/-- The array with an entry placed before the first higher address. -/
def cellsInsert (a : Nat) (v : Byte) : List Host.Cell → List Host.Cell
  | [] => [(a, v)]
  | (b, w) :: rest => if a < b then (a, v) :: (b, w) :: rest else (b, w) :: cellsInsert a v rest

/-- Put one byte at one address, keeping the canonical form: an entry equal to what an unlisted address reads as is
removed, any other is listed in its place. -/
def cellsPut (dflt : Nat → Byte) (a : Nat) (v : Byte) (m : List Host.Cell) : List Host.Cell :=
  if v = dflt a then cellsErase a m else cellsInsert a v (cellsErase a m)

/-- Every listed address is at least `lo` and inside the address space, the addresses rise strictly, and no entry equals
what an unlisted address reads as. -/
def cellsFrom (dflt : Nat → Byte) : Nat → List Host.Cell → Bool
  | _, [] => true
  | lo, (a, v) :: rest => decide (lo ≤ a) && decide (a < memSize) && decide (v ≠ dflt a) && cellsFrom dflt (a + 1) rest

/-- The canonical form of a sparse byte array. -/
def cellsWf (dflt : Nat → Byte) (m : List Host.Cell) : Bool := cellsFrom dflt 0 m

end Sys2Proof
end

