-- ==== Sys2Proof/Config.lean ====
section
/-!
DEFINITION. The configuration (spec/00_scope.md rules R5 and R6): the parameters the spec leaves OPEN, the check that a
configuration is well-formed, and the constants the spec fixes or decides. No parameter has a value here.
-/

namespace Sys2Proof

/-- The OPEN parameters of R5, before they are checked. -/
structure Params where
  /-- `UART_BASE`, first address of the serial device (D3). -/
  uartBase     : Nat
  /-- `TIMER_BASE`, first address of the timer (D3). -/
  timerBase    : Nat
  /-- `TIMER_PRESCALE`, written `P`, the prescaler's reset constant (D9). -/
  prescale     : Nat
  /-- `TIMER_PSEL`, the constant forced into timer control bits 3:0 (D10). -/
  psel         : Nat
  /-- `PIN_READ_VALUE`, the byte a read of `PIN_ADDR` returns (D11). -/
  pinReadValue : Byte
  /-- `MEM_INIT` (D31), the 65536 bytes of the initial image: the listed bytes, and 0x00 at every other address
  (DESIGN CHOICE, safe, log 9: every image can be written so). -/
  memInit      : List Host.Cell
deriving DecidableEq, Repr

/-- `UART_SPAN` (R5, the spec's decision D4). -/
def uartSpan : Nat := 4

/-- `TIMER_SPAN` (R5, the spec's decision D5). -/
def timerSpan : Nat := 2

/-- `PIN_ADDR` (R5, D13). -/
def pinAddr : Addr := 0x0000

/-- `TRACE_BIT` (R5, the spec's decision D12). -/
def traceBit : Nat := 0

/-- What the image holds where it lists nothing. -/
def imageBackground : Nat → Byte := fun _ => 0x00

/-- R6 (a): no claimed range wraps past the top of the address space. -/
def Params.rangesFit (p : Params) : Bool :=
  decide (p.uartBase + uartSpan ≤ memSize) && decide (p.timerBase + timerSpan ≤ memSize)

/-- R6 (b), R109: the two claimed ranges are disjoint. -/
def Params.rangesDisjoint (p : Params) : Bool :=
  decide (p.uartBase + uartSpan ≤ p.timerBase ∨ p.timerBase + timerSpan ≤ p.uartBase)

/-- R6 (c). -/
def Params.prescaleInRange (p : Params) : Bool := decide (1 ≤ p.prescale ∧ p.prescale ≤ 127)

/-- R6 (d). -/
def Params.pselInRange (p : Params) : Bool := decide (p.psel ≤ 15)

/-- R181: the image does not exceed the memory; it is listed in canonical form (log 9). -/
def Params.imageFits (p : Params) : Bool := cellsWf imageBackground p.memInit

/-- R6, R181: a parameter record that fails a check is refused before reset. -/
def Params.wellFormed (p : Params) : Bool :=
  p.rangesFit && p.rangesDisjoint && p.prescaleInRange && p.pselInRange && p.imageFits

/-- A well-formed configuration: the block exists for no other (R6, R109, R181), so no state can hold an ill-formed one.
The field values given here only show Lean that a well-formed record exists; they are no values of the hardware. -/
structure Config extends Params where
  uartBase     := 0x8000
  timerBase    := 0x8010
  prescale     := 4
  psel         := 7
  pinReadValue := 0x01
  memInit      := []
  ok : toParams.wellFormed = true := by decide
deriving DecidableEq, Repr, Inhabited

/-- Turn a parameter record into a configuration, refusing an ill-formed one (R6, R181). -/
def Config.ofParams (p : Params) : Option Config :=
  if h : p.wellFormed = true then some { toParams := p, ok := h } else none

/-- The configuration of the block that `State.reset` is the reset state of: any well-formed one. It has no body, so no
proof can learn a value of it (R5 OPEN, R11; DESIGN CHOICE, safe, log 2). -/
opaque Config.actual : Config

/-- The byte of `MEM_INIT` at an address. -/
def Config.imageByte (c : Config) (a : Nat) : Byte := cellsGet imageBackground c.memInit a

end Sys2Proof
end

