-- ==== Sys2Proof/Machine/Operands.lean ====
section
/-!
DEFINITION. The operand forms (spec/30_encoding.md rule R86) and the register a device offset names (spec/30_encoding.md rule
R82, spec/41_uart.md rule R130; the order is the spec's own choice D4, D5, D19: DESIGN CHOICE, unsafe, log 17).
-/

namespace Sys2Proof.Machine

/-- The serial device's four registers (R130). -/
inductive UartReg where
  | control
  | txData
  | status
  | rxData
deriving DecidableEq, Repr

/-- The register at an offset: 0 CONTROL, 1 TXDATA, 2 STATUS, 3 RXDATA (R130). -/
def uartRegAt (off : BitVec 2) : UartReg :=
  match off.toNat with
  | 0 => .control
  | 1 => .txData
  | 2 => .status
  | _ => .rxData

/-- The timer's two bus-visible registers (R67). -/
inductive TimerReg where
  | data
  | control
deriving DecidableEq, Repr

/-- The register at an offset: 0 DATA, 1 CONTROL (R67). -/
def timerRegAt (off : BitVec 1) : TimerReg :=
  match off.toNat with
  | 0 => .data
  | _ => .control

/-- The traced bit of a byte written to the sentinel, `data[TRACE_BIT]` (R86, R103; bit 0 is the spec's own choice D12:
DESIGN CHOICE, unsafe, log 20). -/
def tracedBit (data : Byte) : Bool := data.getLsbD traceBit

end Sys2Proof.Machine
end

