-- ==== Sys2Proof/Syntax.lean ====
section
/-!
DEFINITION. The 23 operations of the block (spec/00_scope.md rule R10, spec/30_encoding.md rules R85 and R86), one constructor
for each row of spec/opcode_table.json, in the table's order.
-/

namespace Sys2Proof

/-- The operations of R10. An operand is what R86 gives the operation. -/
inductive Instr where
  /-- `BUS.RD` (R100): the read dispatch. -/
  | busRd (addr : Addr)
  /-- `BUS.WR` (R101): the write dispatch. -/
  | busWr (addr : Addr) (data : Byte)
  /-- `PIN.RD` (R102). -/
  | pinRd
  /-- `TRACE.WR` (R103). -/
  | traceWr (data : Byte)
  /-- `UART.RD.CONTROL` (R121). -/
  | uartRdControl
  /-- `UART.RD.TXDATA` (R122). -/
  | uartRdTxdata
  /-- `UART.RD.STATUS` (R123). -/
  | uartRdStatus
  /-- `UART.RD.RXDATA` (R124). -/
  | uartRdRxdata
  /-- `UART.WR.CONTROL` (R125). -/
  | uartWrControl (data : Byte)
  /-- `UART.WR.TXDATA` (R126). -/
  | uartWrTxdata (data : Byte)
  /-- `UART.WR.STATUS` (R127). -/
  | uartWrStatus (data : Byte)
  /-- `UART.WR.RXDATA` (R128). -/
  | uartWrRxdata (data : Byte)
  /-- `TIMER.RD.DATA` (R151). -/
  | timerRdData
  /-- `TIMER.RD.CONTROL` (R152). -/
  | timerRdControl
  /-- `TIMER.WR.DATA` (R153). -/
  | timerWrData (data : Byte)
  /-- `TIMER.WR.CONTROL` (R154). -/
  | timerWrControl (data : Byte)
  /-- `MEM.RD` (R104). -/
  | memRd (addr : Addr)
  /-- `MEM.WR` (R105). -/
  | memWr (addr : Addr) (data : Byte)
  /-- `RESET` (R200). -/
  | reset
  /-- `UART.ATTACH` (R120), the first part of `RESET`. -/
  | uartAttach
  /-- `TIMER.ATTACH` (R150), the second part of `RESET`. -/
  | timerAttach
  /-- `UART.RECEIVE` (R129), the `RX(byte)` stimulus. -/
  | uartReceive (byte : Byte)
  /-- `TIMER.ADVANCE` (R155), the `ADV(n)` stimulus. -/
  | timerAdvance (n : Nat)
deriving DecidableEq, Repr

end Sys2Proof
end

