-- ==== Sys2Proof/WellFormed.lean ====
section
/-!
DEFINITION. When an operation can be selected under a configuration (spec/20_memory.md rule R67, spec/40_bus_dispatcher.md
rules R104, R105 and R108). The checks of a configuration itself are in Sys2Proof/Config.lean.
-/

namespace Sys2Proof

/-- The address lies in the serial device's claimed range (R67). -/
def Config.inUart (c : Config) (a : Addr) : Bool :=
  decide (c.uartBase ≤ a.toNat ∧ a.toNat < c.uartBase + uartSpan)

/-- The address lies in the timer's claimed range (R67). -/
def Config.inTimer (c : Config) (a : Addr) : Bool :=
  decide (c.timerBase ≤ a.toNat ∧ a.toNat < c.timerBase + timerSpan)

/-- The address is plain memory: neither the sentinel nor claimed by a device (R67, "every other address"). -/
def Config.isPlain (c : Config) (a : Addr) : Bool :=
  decide (a ≠ pinAddr) && !c.inUart a && !c.inTimer a

/-- An operation is well-formed under a configuration when some stimulus selects it: the operand of `MEM.RD` and `MEM.WR`
is an address of plain memory (R104, R105), and the register of a device operation is not the one the sentinel shadows
(R108 (c)). The two attaches are well-formed as the parts of `RESET` they are (R85). -/
def Instr.wellFormed (c : Config) : Instr → Bool
  | .busRd _ => true
  | .busWr _ _ => true
  | .pinRd => true
  | .traceWr _ => true
  | .uartRdControl => decide (c.uartBase ≠ 0)
  | .uartRdTxdata => true
  | .uartRdStatus => true
  | .uartRdRxdata => true
  | .uartWrControl _ => decide (c.uartBase ≠ 0)
  | .uartWrTxdata _ => true
  | .uartWrStatus _ => true
  | .uartWrRxdata _ => true
  | .timerRdData => decide (c.timerBase ≠ 0)
  | .timerRdControl => true
  | .timerWrData _ => decide (c.timerBase ≠ 0)
  | .timerWrControl _ => true
  | .memRd a => c.isPlain a
  | .memWr a _ => c.isPlain a
  | .reset => true
  | .uartAttach => true
  | .timerAttach => true
  | .uartReceive _ => true
  | .timerAdvance _ => true

end Sys2Proof
end

