-- ==== Sys2Proof/Decode.lean ====
section
/-!
DEFINITION. The decoder and the encoder (spec/30_encoding.md): the transaction word `T` (R80), the address decoder (R81,
R82), the local word `L` (R83), the event code `E` (R84), the operation map (R85), and what selects nothing (R87, R88).
-/

namespace Sys2Proof

/-- Why a word is not an operation; each is named. -/
inductive DecodeError where
  /-- `E = 0b11` names no event (R84, R88). Safe. -/
  | noSuchEvent
  /-- The operand of `RX` is not one byte (R84). Safe (log 14). -/
  | operandTooWide
  /-- `RESET` carries no operand (R84). Safe (log 14). -/
  | strayOperand
  /-- `L = 10 x 1x` names no operation (R85, R87). Safe. -/
  | noSuchOperation
deriving DecidableEq, Repr

/-! ### The transaction word `T` (R80) -/

/-- `T = {rw, addr[15:0], data[7:0]}`, 25 bits (R80). -/
def Transaction.toWord (t : Transaction) : BitVec 25 := t.rw ++ t.addr ++ t.data

/-- The fields of a transaction word: `rw` is bit 24, `addr` bits 23:8, `data` bits 7:0 (R80). -/
def Transaction.ofWord (w : BitVec 25) : Transaction :=
  { rw := w.extractLsb' 24 1, addr := w.extractLsb' 8 16, data := w.extractLsb' 0 8 }

/-! ### Decode stage 1: the address decoder (R81, R82) -/

/-- The select code and the register offset of R81 and R82. The offset is typed, so that an offset outside a device cannot
be written down (R87). -/
inductive Select where
  | pin
  | uart (off : BitVec 2)
  | timer (off : BitVec 1)
  | mem
deriving DecidableEq, Repr

/-- The address decoder: the sentinel first, then the two devices, else plain memory (R81), with the offset
`addr - base` (R82). -/
def Config.select (c : Config) (a : Addr) : Select :=
  if a = pinAddr then .pin
  else if c.uartBase ≤ a.toNat ∧ a.toNat < c.uartBase + uartSpan then .uart (BitVec.ofNat 2 (a.toNat - c.uartBase))
  else if c.timerBase ≤ a.toNat ∧ a.toNat < c.timerBase + timerSpan then .timer (BitVec.ofNat 1 (a.toNat - c.timerBase))
  else .mem

/-- The select codes of R83. -/
def Select.code : Select → BitVec 2
  | .pin => 0b00
  | .uart _ => 0b01
  | .timer _ => 0b10
  | .mem => 0b11

/-- The offset field of `L`; 0 for the sentinel and for plain memory (R82). -/
def Select.off : Select → BitVec 2
  | .pin => 0
  | .uart o => o
  | .timer o => o.setWidth 2
  | .mem => 0

/-- Decode stage 1: from a transaction to the local word `L = {sel, rw, off}` (R83). -/
def Config.stage1 (c : Config) (t : Transaction) : LocalWord :=
  { bits := (c.select t.addr).code ++ t.rw ++ (c.select t.addr).off, addr := t.addr, data := t.data }

/-! ### Decode stage 2: the operation map (R85) -/

/-- The map of R85 from `L` to the leaf operation, with the operands of R86. A bit that R85 writes `x` is not tested: the row
stands for all its words. -/
def decodeLocal (w : LocalWord) : Except DecodeError Instr :=
  match w.bits.toNat with
  | 0b00000 | 0b00001 | 0b00010 | 0b00011 => .ok .pinRd
  | 0b00100 | 0b00101 | 0b00110 | 0b00111 => .ok (.traceWr w.data)
  | 0b01000 => .ok .uartRdControl
  | 0b01001 => .ok .uartRdTxdata
  | 0b01010 => .ok .uartRdStatus
  | 0b01011 => .ok .uartRdRxdata
  | 0b01100 => .ok (.uartWrControl w.data)
  | 0b01101 => .ok (.uartWrTxdata w.data)
  | 0b01110 => .ok (.uartWrStatus w.data)
  | 0b01111 => .ok (.uartWrRxdata w.data)
  | 0b10000 => .ok .timerRdData
  | 0b10001 => .ok .timerRdControl
  | 0b10100 => .ok (.timerWrData w.data)
  | 0b10101 => .ok (.timerWrControl w.data)
  | 0b11000 | 0b11001 | 0b11010 | 0b11011 => .ok (.memRd w.addr)
  | 0b11100 | 0b11101 | 0b11110 | 0b11111 => .ok (.memWr w.addr w.data)
  | _ => .error .noSuchOperation

/-- Both stages: the leaf operation a transaction selects. -/
def Config.decodeBus (c : Config) (t : Transaction) : Except DecodeError Instr := decodeLocal (c.stage1 t)

/-! ### Stimuli -/

/-- The event stimuli of R84 and R85: `E = 00` is `RESET`, `01` is `RX`, `10` is `ADV`, `11` names nothing. -/
def decodeEvent (e : EventWord) : Except DecodeError Instr :=
  match e.code.toNat with
  | 0 => if e.operand = 0 then .ok .reset else .error .strayOperand
  | 1 => if e.operand < 256 then .ok (.uartReceive (BitVec.ofNat 8 e.operand)) else .error .operandTooWide
  | 2 => .ok (.timerAdvance e.operand)
  | _ => .error .noSuchEvent

/-- The top-level operation of a stimulus: a transaction is one of the two dispatches, by `rw` (R80, R85); an event is
its own operation. -/
def decode : Stimulus → Except DecodeError Instr
  | .bus t => if t.rw = 0 then .ok (.busRd t.addr) else .ok (.busWr t.addr t.data)
  | .event e => decodeEvent e

/-! ### The encoder -/

/-- The local word of a leaf operation (R83, R85), with 0 in every bit R85 does not test and on every line it does not
use; `none` for an operation that is not a leaf. -/
def encodeLocal : Instr → Option LocalWord
  | .pinRd => some ⟨0b00000, 0, 0⟩
  | .traceWr d => some ⟨0b00100, 0, d⟩
  | .uartRdControl => some ⟨0b01000, 0, 0⟩
  | .uartRdTxdata => some ⟨0b01001, 0, 0⟩
  | .uartRdStatus => some ⟨0b01010, 0, 0⟩
  | .uartRdRxdata => some ⟨0b01011, 0, 0⟩
  | .uartWrControl d => some ⟨0b01100, 0, d⟩
  | .uartWrTxdata d => some ⟨0b01101, 0, d⟩
  | .uartWrStatus d => some ⟨0b01110, 0, d⟩
  | .uartWrRxdata d => some ⟨0b01111, 0, d⟩
  | .timerRdData => some ⟨0b10000, 0, 0⟩
  | .timerRdControl => some ⟨0b10001, 0, 0⟩
  | .timerWrData d => some ⟨0b10100, 0, d⟩
  | .timerWrControl d => some ⟨0b10101, 0, d⟩
  | .memRd a => some ⟨0b11000, a, 0⟩
  | .memWr a d => some ⟨0b11100, a, d⟩
  | .busRd _ => none
  | .busWr _ _ => none
  | .reset => none
  | .uartAttach => none
  | .timerAttach => none
  | .uartReceive _ => none
  | .timerAdvance _ => none

/-- A bus read of an address given as a number. -/
def rdAt (a : Nat) : Stimulus := .bus ⟨0, BitVec.ofNat 16 a, 0⟩

/-- A bus write of an address given as a number. -/
def wrAt (a : Nat) (d : Byte) : Stimulus := .bus ⟨1, BitVec.ofNat 16 a, d⟩

/-- The stimulus that makes the block perform an operation under a configuration (R67, R84): for a leaf the transaction
whose address selects it, for an event its own word; an attach is part of `RESET` and has its word (R85). -/
def encode (c : Config) : Instr → Stimulus
  | .busRd a => .bus ⟨0, a, 0⟩
  | .busWr a d => .bus ⟨1, a, d⟩
  | .pinRd => .bus ⟨0, pinAddr, 0⟩
  | .traceWr d => .bus ⟨1, pinAddr, d⟩
  | .uartRdControl => rdAt (c.uartBase + 0)
  | .uartRdTxdata => rdAt (c.uartBase + 1)
  | .uartRdStatus => rdAt (c.uartBase + 2)
  | .uartRdRxdata => rdAt (c.uartBase + 3)
  | .uartWrControl d => wrAt (c.uartBase + 0) d
  | .uartWrTxdata d => wrAt (c.uartBase + 1) d
  | .uartWrStatus d => wrAt (c.uartBase + 2) d
  | .uartWrRxdata d => wrAt (c.uartBase + 3) d
  | .timerRdData => rdAt (c.timerBase + 0)
  | .timerRdControl => rdAt (c.timerBase + 1)
  | .timerWrData d => wrAt (c.timerBase + 0) d
  | .timerWrControl d => wrAt (c.timerBase + 1) d
  | .memRd a => .bus ⟨0, a, 0⟩
  | .memWr a d => .bus ⟨1, a, d⟩
  | .reset => .event ⟨0b00, 0⟩
  | .uartAttach => .event ⟨0b00, 0⟩
  | .timerAttach => .event ⟨0b00, 0⟩
  | .uartReceive b => .event ⟨0b01, b.toNat⟩
  | .timerAdvance n => .event ⟨0b10, n⟩

/-! ### The rows of the operation table -/

/-- `pattern` and `mask` of a row of spec/opcode_table.json, over `L` for a bus row and over `E` for an event row. -/
structure TableRow where
  pattern : Nat
  mask    : Nat
deriving DecidableEq, Repr

/-- The row of each operation (R85). -/
def Instr.tableRow : Instr → TableRow
  | .busRd _ => ⟨0x00, 0x04⟩
  | .busWr _ _ => ⟨0x04, 0x04⟩
  | .pinRd => ⟨0x00, 0x1C⟩
  | .traceWr _ => ⟨0x04, 0x1C⟩
  | .uartRdControl => ⟨0x08, 0x1F⟩
  | .uartRdTxdata => ⟨0x09, 0x1F⟩
  | .uartRdStatus => ⟨0x0A, 0x1F⟩
  | .uartRdRxdata => ⟨0x0B, 0x1F⟩
  | .uartWrControl _ => ⟨0x0C, 0x1F⟩
  | .uartWrTxdata _ => ⟨0x0D, 0x1F⟩
  | .uartWrStatus _ => ⟨0x0E, 0x1F⟩
  | .uartWrRxdata _ => ⟨0x0F, 0x1F⟩
  | .timerRdData => ⟨0x10, 0x1F⟩
  | .timerRdControl => ⟨0x11, 0x1F⟩
  | .timerWrData _ => ⟨0x14, 0x1F⟩
  | .timerWrControl _ => ⟨0x15, 0x1F⟩
  | .memRd _ => ⟨0x18, 0x1C⟩
  | .memWr _ _ => ⟨0x1C, 0x1C⟩
  | .reset => ⟨0x00, 0x03⟩
  | .uartAttach => ⟨0x00, 0x03⟩
  | .timerAttach => ⟨0x00, 0x03⟩
  | .uartReceive _ => ⟨0x01, 0x03⟩
  | .timerAdvance _ => ⟨0x02, 0x03⟩

/-- The word the operation table speaks of, for the stimulus that performs an operation: `L` after stage 1 for a
transaction, `E` for an event. -/
def Stimulus.tableWord (c : Config) : Stimulus → Nat
  | .bus t => (c.stage1 t).bits.toNat
  | .event e => e.code.toNat

/-- The operation read from a word of the operation table, with operand lines of zeros. The table's two spaces `L` and `E`
share the numbers 0 to 3 and the host's question does not say which is meant: 1 and 2 are read as the events `RX` and
`ADV`, since R82 makes every `L` of the sentinel have offset 0; 0, 3 and every other number are read as `L`
(DESIGN CHOICE, safe, log 11). A word of 2 bits is read as `E`. -/
def decodeTableWord (nbits w : Nat) : Option Instr :=
  if nbits = 2 ∨ (nbits ≠ 5 ∧ (w = 1 ∨ w = 2)) then
    if w < 4 then (decodeEvent ⟨BitVec.ofNat 2 w, 0⟩).toOption else none
  else if w < 32 then (decodeLocal ⟨BitVec.ofNat 5 w, 0, 0⟩).toOption
  else none

end Sys2Proof
end

