-- ==== Sys2Proof/Machine/ResetValues.lean ====
section
/-!
DEFINITION. The reset values of the registers (spec/10_state.md rule R37) and the constants the configuration gives the timer
(spec/00_scope.md rule R5).
-/

namespace Sys2Proof.Machine

/-- `P`, as the 7-bit prescaler holds it (R29, R37). -/
def prescaleConst (c : Config) : BitVec 7 := BitVec.ofNat 7 c.prescale

/-- `TIMER_PSEL`, as the low nibble of a byte (R5, R28). -/
def pselConst (c : Config) : Byte := BitVec.ofNat 8 c.psel

/-- `uart.status`: `TXE` = 1 and `RDA` = 0 (R37); bits 7:2 are 0 (DESIGN CHOICE, the spec's own, D15; unsafe, log 8). -/
def uartStatusReset : Byte := 0x02

/-- `uart.control` (R37; DESIGN CHOICE, the spec's own, D15; unsafe, log 8). -/
def uartControlReset : Byte := 0x00

/-- `uart.tx_data` (R37; DESIGN CHOICE, the spec's own, D15; unsafe, log 8). -/
def uartTxDataReset : Byte := 0x00

/-- `uart.rx_data` (R37; DESIGN CHOICE, the spec's own, D15; unsafe, log 8). -/
def uartRxDataReset : Byte := 0x00

/-- `timer.data` (R37). -/
def timerDataReset : Byte := 0x00

/-- `timer.control`: `IF` and `ID` are 1 (R37); `TMODE` is 0 and the low nibble the constant (DESIGN CHOICE, the spec's own,
D15; unsafe, log 8). -/
def timerControlReset (c : Config) : Byte := 0xC0 ||| pselConst c

end Sys2Proof.Machine
end

