-- ==== Sys2Proof/Machine/State.lean ====
section
/-!
DEFINITION. The state of the block (spec/10_state.md rule R20), its outputs (spec/00_scope.md rule R7), the reasons a step can
stop, and the state after RESET (spec/10_state.md rule R37).
-/

namespace Sys2Proof.Machine

/-- The serial device's four registers (R20, R23 to R26). -/
structure Uart where
  control : Byte
  txData  : Byte
  status  : Byte
  rxData  : Byte
deriving DecidableEq, Repr

/-- The timer's two registers and its hidden prescaler (R20, R27 to R29). -/
structure Timer where
  data      : Byte
  control   : Byte
  prescaler : BitVec 7
deriving DecidableEq, Repr

/-- The events of R7. `trace c b` is the waveform sample `TRACE(c, b)`. -/
inductive Event where
  | tx (byte : Byte)
  | irqUartRx
  | irqTimer
  | trace (cycles : Nat) (bit : Bool)
deriving DecidableEq, Repr

/-- The block has no fault: "no operation of the block fails, faults, traps, stalls or returns an undefined value" (R180). No
definition raises one, and none can be written down. Safe. -/
inductive Fault where
deriving DecidableEq, Repr

/-- Why an operation or a step gives no next state. -/
inductive Refusal where
  /-- An operation without a meaning yet; raised by no arm of exec now. Safe. -/
  | notModelled (mnemonic : String)
  /-- Raised by step: the stimulus at the front of `inputs` decodes to no operation (R84, R88). Safe. -/
  | undecodable (why : DecodeError)
  /-- Raised by every operation but RESET and its parts: "A transaction before RESET has no meaning" (R204). Safe. -/
  | beforeReset
  /-- Raised by RESET, UART.ATTACH and TIMER.ATTACH once RESET has been performed: a second RESET is refused (R201, U14).
  Safe. -/
  | secondReset
  /-- Raised by MEM.RD and MEM.WR presented by themselves with an address that is not plain memory: their operand is an
  address with sel = MEM (R104, R105), and the shadowed bytes are never reached (R108). Safe (log 13). -/
  | memNotSelected
deriving DecidableEq, Repr

/-- The state of the block. The first four fields are the nine elements of R20 (four serial registers, three of the timer,
the memory, the cycle counter). The others are the model's own: `cfg` is the configuration, which no operation writes (R5,
log 1); `attached` says that RESET has been performed (R201, R204, log 5); `inputs` are the stimuli still to be handled,
oldest first (R2, R7, log 3); `response` is what the latest operation answered and `events` the output log, oldest first
(R7, log 7): no rule reads either. `mem` lists the bytes that differ from the image (R30, log 9). -/
structure State where
  uart     : Uart
  timer    : Timer
  mem      : List Host.Cell
  cycles   : Nat
  cfg      : Config
  attached : Bool
  inputs   : List Stimulus
  response : Option Byte
  events   : List Event
deriving DecidableEq, Repr

/-- The state right after RESET under a configuration (R37, R200): nothing pending, nothing answered, nothing emitted. -/
def State.afterReset (c : Config) : State :=
  { uart     := { control := uartControlReset, txData := uartTxDataReset, status := uartStatusReset,
                  rxData := uartRxDataReset }
    timer    := { data := timerDataReset, control := timerControlReset c, prescaler := prescaleConst c }
    mem      := []
    cycles   := 0
    cfg      := c
    attached := true
    inputs   := []
    response := none
    events   := [] }

/-- The machine right after reset, under the configuration that is left open (R37; log 2). -/
def State.reset : State := State.afterReset Config.actual

end Sys2Proof.Machine
end

