-- ==== Sys2Proof/Machine/Ops.lean ====
section
/-!
DEFINITION. The named operations over the state that the meanings share: answering, emitting, reporting an interrupt
condition, reading and writing plain memory, updating a device, and the two guards of the reset contract.
-/

namespace Sys2Proof.Machine

/-! ### Responses and events (spec/00_scope.md rule R7) -/

/-- `return v`: the response byte of an `RD` (R9). -/
def State.respond (s : State) (v : Byte) : State := { s with response := some v }

/-- An operation that is answered by nothing (R7). -/
def State.quiet (s : State) : State := { s with response := none }

/-- `emit E`: append one event to the output log (R9). -/
def State.emit (s : State) (e : Event) : State := { s with events := s.events ++ [e] }

/-- Report an interrupt condition. The block performs no trap entry: it saves nothing, changes no mode, masks nothing and
redirects nothing (R187); the condition is a pulse on the output log and is not latched (R184; DESIGN CHOICE, the spec's
own, D26; unsafe, log 24). -/
def State.reportIrq (s : State) (e : Event) : State := s.emit e

/-! ### Device registers -/

/-- Write the serial device's registers. -/
def State.setUart (s : State) (u : Uart) : State := { s with uart := u }

/-- Write the timer's registers. -/
def State.setTimer (s : State) (t : Timer) : State := { s with timer := t }

/-- Write the cycle counter. -/
def State.setCycles (s : State) (n : Nat) : State := { s with cycles := n }

/-! ### Plain memory (spec/00_scope.md rule R9) -/

/-- `MemRead(a, 1)`: the byte of plain memory at an address; a byte nothing has written is the image's (R37, R200). -/
def State.memRead (s : State) (a : Addr) : Byte := cellsGet s.cfg.imageByte s.mem a.toNat

/-- `MemWrite(a, 1, v)`: write one byte of plain memory. -/
def State.memWrite (s : State) (a : Addr) (v : Byte) : State :=
  { s with mem := cellsPut s.cfg.imageByte a.toNat v s.mem }

/-- The memory is in canonical form: addresses strictly rising and inside the space, no entry equal to the image's byte. -/
def memWf (c : Config) (m : List Host.Cell) : Bool := cellsWf c.imageByte m

/-! ### The reset contract -/

/-- What an operation answers: its effect once RESET has been performed, a refusal before (R204, log 5). -/
def whenAttached (s t : State) : Host.Outcome State Fault Refusal :=
  if s.attached = true then .next t else .refused .beforeReset

/-- What RESET and its parts answer: their effect before RESET has been performed, a refusal after (R201, U14, log 5). -/
def whenUnattached (s t : State) : Host.Outcome State Fault Refusal :=
  if s.attached = true then .refused .secondReset else .next t

/-! ### The environment -/

/-- The environment presents one more stimulus, after those still pending (R2, R206). -/
def State.present (s : State) (st : Stimulus) : State := { s with inputs := s.inputs ++ [st] }

end Sys2Proof.Machine
end

