-- ==== Sys2Proof/Machine/Memory.lean ====
section
/-!
DEFINITION. Plain memory: `MEM.RD` and `MEM.WR` (spec/40_bus_dispatcher.md rules R104 and R105).
-/

namespace Sys2Proof.Machine

/-- R104. -/
def plainRead (a : Addr) (s : State) : State := s.respond (s.memRead a)

/-- R105. -/
def plainWrite (a : Addr) (data : Byte) (s : State) : State := s.quiet.memWrite a data

/-- The operand of `MEM.RD` and `MEM.WR` is an address with sel = MEM (R104, R105); for any other the operation is not
selected and the shadowed byte is not reached (R108; DEDUCED, safe, log 13). -/
def whenMemSelected (a : Addr) (s t : State) : Host.Outcome State Fault Refusal :=
  if s.cfg.select a = .mem then whenAttached s t else .refused .memNotSelected

/-- `MEM.RD` (R104). -/
def execMemRd (a : Addr) (s : State) : Host.Outcome State Fault Refusal := whenMemSelected a s (plainRead a s)

/-- `MEM.WR` (R105). -/
def execMemWr (a : Addr) (data : Byte) (s : State) : Host.Outcome State Fault Refusal :=
  whenMemSelected a s (plainWrite a data s)

end Sys2Proof.Machine
end

