-- ==== Sys2Proof/Machine/Pin.lean ====
section
/-!
DEFINITION. The sentinel address: `PIN.RD` and `TRACE.WR` (spec/40_bus_dispatcher.md rules R102 and R103).
-/

namespace Sys2Proof.Machine

/-- R102: the constant of the configuration, whatever the state holds. -/
def pinRead (s : State) : State := s.respond s.cfg.pinReadValue

/-- R103: one sample `TRACE(cycles, data[TRACE_BIT])`; nothing is stored (D14, log 20). -/
def traceWrite (data : Byte) (s : State) : State := s.quiet.emit (.trace s.cycles (tracedBit data))

/-- `PIN.RD` (R102). -/
def execPinRd (s : State) : Host.Outcome State Fault Refusal := whenAttached s (pinRead s)

/-- `TRACE.WR` (R103). -/
def execTraceWr (data : Byte) (s : State) : Host.Outcome State Fault Refusal := whenAttached s (traceWrite data s)

end Sys2Proof.Machine
end

