-- ==== Sys2Proof/Machine/Timer.lean ====
section
/-!
DEFINITION. The interval timer: attach, two reads, two writes and the advance of the clock (spec/42_timer.md rules R150 to
R155 and R161), with the closed form of the advance (rule R156).
-/

namespace Sys2Proof.Machine

/-! ### Attach -/

/-- R150. -/
def timerAttached (s : State) : State :=
  s.setTimer { data := timerDataReset, control := timerControlReset s.cfg, prescaler := prescaleConst s.cfg }

/-- `TIMER.ATTACH` (R150), the second part of RESET; before RESET only (R201; log 6). -/
def execTimerAttach (s : State) : Host.Outcome State Fault Refusal := whenUnattached s (timerAttached s.quiet)

/-! ### Reads -/

/-- R151. -/
def timerReadData (s : State) : State := s.respond s.timer.data

/-- R152: bit 3 reads 0. -/
def timerReadControl (s : State) : State := s.respond (timerControlRead s.timer.control)

/-- `TIMER.RD.DATA` (R151). -/
def execTimerRdData (s : State) : Host.Outcome State Fault Refusal := whenAttached s (timerReadData s)

/-- `TIMER.RD.CONTROL` (R152). -/
def execTimerRdControl (s : State) : Host.Outcome State Fault Refusal := whenAttached s (timerReadControl s)

/-! ### Writes -/

/-- R153: the counter only; the prescaler is not reloaded (D28, log 22). -/
def timerWriteData (data : Byte) (s : State) : State := s.quiet.setTimer { s.timer with data := data }

/-- R154: `PRST` written 1 reloads the prescaler; bits 7:4 are stored, bits 3:0 become the constant. -/
def timerWriteControl (data : Byte) (s : State) : State :=
  s.quiet.setTimer
    { s.timer with
      prescaler := if timerPrst data then prescaleConst s.cfg else s.timer.prescaler
      control := timerControlStore (pselConst s.cfg) data }

/-- `TIMER.WR.DATA` (R153). -/
def execTimerWrData (data : Byte) (s : State) : Host.Outcome State Fault Refusal := whenAttached s (timerWriteData data s)

/-- `TIMER.WR.CONTROL` (R154). -/
def execTimerWrControl (data : Byte) (s : State) : Host.Outcome State Fault Refusal :=
  whenAttached s (timerWriteControl data s)

/-! ### Advance -/

/-- The underflow of the data counter (R155): wrap to 0xFF, set `IF`, and report unless `ID` is set; setting `IF` leaves
`ID` as it is. -/
def timerUnderflow (s : State) : State :=
  if timerId s.timer.control then s.setTimer { s.timer with data := 0xFF, control := setTimerIf s.timer.control }
  else (s.setTimer { s.timer with data := 0xFF, control := setTimerIf s.timer.control }).reportIrq .irqTimer

/-- What a tick does to the data counter (R155). -/
def timerCount (s : State) : State :=
  if s.timer.data = 0x00 then timerUnderflow s else s.setTimer { s.timer with data := s.timer.data - 1 }

/-- One elapsed cycle (R155): the prescaler counts down, and when it reaches 0 it is reloaded and the counter steps. The
7-bit prescaler is at least 1 between stimuli (R38); in a state where it is 0 the decrement wraps (DESIGN CHOICE, unsafe,
log 10). -/
def timerCycle (s : State) : State :=
  if s.timer.prescaler - 1 = 0 then timerCount (s.setTimer { s.timer with prescaler := prescaleConst s.cfg })
  else s.setTimer { s.timer with prescaler := s.timer.prescaler - 1 }

/-- `repeat n times` (R155). -/
def timerCycles : Nat → State → State
  | 0, s => s
  | n + 1, s => timerCycles n (timerCycle s)

/-- R155 and R161: the loop, and then `cycles + n`. -/
def timerAdvanced (n : Nat) (s : State) : State :=
  (timerCycles n s.quiet).setCycles (s.cycles + n)

/-- `TIMER.ADVANCE` (R155). -/
def execTimerAdvance (n : Nat) (s : State) : Host.Outcome State Fault Refusal := whenAttached s (timerAdvanced n s)

/-! ### The closed form (R156) -/

/-- R156: the number of ticks in `n` cycles from prescaler value `p`. -/
def closedTicks (P p n : Nat) : Nat := if n < p then 0 else 1 + (n - p) / P

/-- R156: the prescaler after `n` cycles. -/
def closedPrescaler (P p n : Nat) : Nat := if n < p then p - n else P - (n - p) % P

/-- R156: the number of underflows in `k` ticks from counter value `d`. -/
def closedUnderflows (d k : Nat) : Nat := if k ≤ d then 0 else 1 + (k - d - 1) / 256

/-- R156: the counter after `k` ticks, `(d - k) mod 256`. -/
def closedData (d k : Nat) : Nat := (((d : Int) - (k : Int)) % 256).toNat

/-! ### The register multiplexer (R67) -/

/-- The read a register offset selects. -/
def timerRead (off : BitVec 1) (s : State) : State :=
  match timerRegAt off with
  | .data => timerReadData s
  | .control => timerReadControl s

/-- The write a register offset selects. -/
def timerWrite (off : BitVec 1) (data : Byte) (s : State) : State :=
  match timerRegAt off with
  | .data => timerWriteData data s
  | .control => timerWriteControl data s

end Sys2Proof.Machine
end

