-- ==== Sys2Proof/Machine/Uart.lean ====
section
/-!
DEFINITION. The serial device: attach, four reads, four writes and the receive event (spec/41_uart.md rules R120 to R129).
-/

namespace Sys2Proof.Machine

/-! ### Attach -/

/-- R120: the four registers at their reset values. -/
def uartAttached (s : State) : State :=
  s.setUart { control := uartControlReset, txData := uartTxDataReset, status := uartStatusReset,
              rxData := uartRxDataReset }

/-- `UART.ATTACH` (R120), the first part of RESET; before RESET only (R201; log 6). -/
def execUartAttach (s : State) : Host.Outcome State Fault Refusal := whenUnattached s (uartAttached s.quiet)

/-! ### Reads -/

/-- R121. -/
def uartReadControl (s : State) : State := s.respond s.uart.control

/-- R122. -/
def uartReadTxdata (s : State) : State := s.respond s.uart.txData

/-- R123. -/
def uartReadStatus (s : State) : State := s.respond s.uart.status

/-- R124: the one read with a side effect; `RDA` is cleared and `rx_data` kept. -/
def uartReadRxdata (s : State) : State :=
  (s.respond s.uart.rxData).setUart { s.uart with status := clearRda s.uart.status }

/-- `UART.RD.CONTROL` (R121). -/
def execUartRdControl (s : State) : Host.Outcome State Fault Refusal := whenAttached s (uartReadControl s)

/-- `UART.RD.TXDATA` (R122). -/
def execUartRdTxdata (s : State) : Host.Outcome State Fault Refusal := whenAttached s (uartReadTxdata s)

/-- `UART.RD.STATUS` (R123). -/
def execUartRdStatus (s : State) : Host.Outcome State Fault Refusal := whenAttached s (uartReadStatus s)

/-- `UART.RD.RXDATA` (R124). -/
def execUartRdRxdata (s : State) : Host.Outcome State Fault Refusal := whenAttached s (uartReadRxdata s)

/-! ### Writes -/

/-- R125: a raw store, or with the master reset pattern the reset status and the byte with bits 1:0 cleared (DESIGN CHOICE,
the spec's own, D17; unsafe, log 21). -/
def uartWriteControl (data : Byte) (s : State) : State :=
  s.quiet.setUart
    (if isMasterReset data then { s.uart with status := masterResetStatus, control := masterResetControl data }
     else { s.uart with control := data })

/-- R126: store the byte, clear `TXE`, emit `TX(data)`, set `TXE`. -/
def uartWriteTxdata (data : Byte) (s : State) : State :=
  let s₁ := s.quiet.setUart { s.uart with txData := data, status := clearTxe s.uart.status }
  let s₂ := s₁.emit (.tx data)
  s₂.setUart { s₂.uart with status := setTxe s₂.uart.status }

/-- R127: a raw store of all eight bits. -/
def uartWriteStatus (data : Byte) (s : State) : State := s.quiet.setUart { s.uart with status := data }

/-- R128: a raw store; `RDA` is not set and nothing is transmitted. -/
def uartWriteRxdata (data : Byte) (s : State) : State := s.quiet.setUart { s.uart with rxData := data }

/-- `UART.WR.CONTROL` (R125). -/
def execUartWrControl (data : Byte) (s : State) : Host.Outcome State Fault Refusal :=
  whenAttached s (uartWriteControl data s)

/-- `UART.WR.TXDATA` (R126). -/
def execUartWrTxdata (data : Byte) (s : State) : Host.Outcome State Fault Refusal :=
  whenAttached s (uartWriteTxdata data s)

/-- `UART.WR.STATUS` (R127). -/
def execUartWrStatus (data : Byte) (s : State) : Host.Outcome State Fault Refusal :=
  whenAttached s (uartWriteStatus data s)

/-- `UART.WR.RXDATA` (R128). -/
def execUartWrRxdata (data : Byte) (s : State) : Host.Outcome State Fault Refusal :=
  whenAttached s (uartWriteRxdata data s)

/-! ### Receive -/

/-- R129: hold the byte, set `RDA`, and report `IRQ_UART_RX` if `RIE` is 1; `IRQF` and the error bits are not touched
(DESIGN CHOICE, the spec's own, D18; unsafe, log 21). -/
def uartReceived (byte : Byte) (s : State) : State :=
  let s₁ := s.quiet.setUart { s.uart with rxData := byte, status := setRda s.uart.status }
  if uartRie s.uart.control then s₁.reportIrq .irqUartRx else s₁

/-- `UART.RECEIVE` (R129). -/
def execUartReceive (byte : Byte) (s : State) : Host.Outcome State Fault Refusal := whenAttached s (uartReceived byte s)

/-! ### The register multiplexer (R130) -/

/-- The read a register offset selects; a function of the offset alone. -/
def uartRead (off : BitVec 2) (s : State) : State :=
  match uartRegAt off with
  | .control => uartReadControl s
  | .txData => uartReadTxdata s
  | .status => uartReadStatus s
  | .rxData => uartReadRxdata s

/-- The write a register offset selects; only offset 1 transmits (R131). -/
def uartWrite (off : BitVec 2) (data : Byte) (s : State) : State :=
  match uartRegAt off with
  | .control => uartWriteControl data s
  | .txData => uartWriteTxdata data s
  | .status => uartWriteStatus data s
  | .rxData => uartWriteRxdata data s

end Sys2Proof.Machine
end

