-- ==== Sys2Proof/Machine/Bus.lean ====
section
/-!
DEFINITION. The two dispatches `BUS.RD` and `BUS.WR` (spec/40_bus_dispatcher.md rules R100 and R101): the address decoder selects
one owner, and that owner's operation is performed.
-/

namespace Sys2Proof.Machine

/-- R100: the read dispatch and read-data multiplexer. -/
def busRead (a : Addr) (s : State) : State :=
  match s.cfg.select a with
  | .pin => pinRead s
  | .uart off => uartRead off s
  | .timer off => timerRead off s
  | .mem => plainRead a s

/-- R101: the write dispatch and write demultiplexer. -/
def busWrite (a : Addr) (data : Byte) (s : State) : State :=
  match s.cfg.select a with
  | .pin => traceWrite data s
  | .uart off => uartWrite off data s
  | .timer off => timerWrite off data s
  | .mem => plainWrite a data s

/-- `BUS.RD` (R100). -/
def execBusRd (a : Addr) (s : State) : Host.Outcome State Fault Refusal := whenAttached s (busRead a s)

/-- `BUS.WR` (R101). -/
def execBusWr (a : Addr) (data : Byte) (s : State) : Host.Outcome State Fault Refusal := whenAttached s (busWrite a data s)

end Sys2Proof.Machine
end

