-- ==== Sys2Proof/Machine/Reset.lean ====
section
/-!
DEFINITION. `RESET` (spec/70_reset_and_hazards.md rules R200 and R201).
-/

namespace Sys2Proof.Machine

/-- R200: both attaches, the image in memory, the cycle counter cleared; it emits nothing and depends on the configuration
alone. The pending stimuli and the output log are the environment's and stand (log 5). -/
def resetDone (s : State) : State :=
  { timerAttached (uartAttached s.quiet) with mem := [], cycles := 0, attached := true }

/-- `RESET` (R200); a second one is refused (R201). -/
def execReset (s : State) : Host.Outcome State Fault Refusal := whenUnattached s (resetDone s)

end Sys2Proof.Machine
end

