-- ==== Sys2Proof/Machine/Dispatch.lean ====
section
/-!
DEFINITION. exec: the meaning of each operation, one arm for each row of spec/opcode_table.json.
-/

namespace Sys2Proof.Machine

/-- The outcome of one operation of R10. -/
def exec (i : Instr) (s : State) : Host.Outcome State Fault Refusal :=
  match i with
  | .busRd addr => Sys2Proof.Machine.execBusRd addr s
  | .busWr addr data => Sys2Proof.Machine.execBusWr addr data s
  | .pinRd => Sys2Proof.Machine.execPinRd s
  | .traceWr data => Sys2Proof.Machine.execTraceWr data s
  | .uartRdControl => Sys2Proof.Machine.execUartRdControl s
  | .uartRdTxdata => Sys2Proof.Machine.execUartRdTxdata s
  | .uartRdStatus => Sys2Proof.Machine.execUartRdStatus s
  | .uartRdRxdata => Sys2Proof.Machine.execUartRdRxdata s
  | .uartWrControl data => Sys2Proof.Machine.execUartWrControl data s
  | .uartWrTxdata data => Sys2Proof.Machine.execUartWrTxdata data s
  | .uartWrStatus data => Sys2Proof.Machine.execUartWrStatus data s
  | .uartWrRxdata data => Sys2Proof.Machine.execUartWrRxdata data s
  | .timerRdData => Sys2Proof.Machine.execTimerRdData s
  | .timerRdControl => Sys2Proof.Machine.execTimerRdControl s
  | .timerWrData data => Sys2Proof.Machine.execTimerWrData data s
  | .timerWrControl data => Sys2Proof.Machine.execTimerWrControl data s
  | .memRd addr => Sys2Proof.Machine.execMemRd addr s
  | .memWr addr data => Sys2Proof.Machine.execMemWr addr data s
  | .reset => Sys2Proof.Machine.execReset s
  | .uartAttach => Sys2Proof.Machine.execUartAttach s
  | .timerAttach => Sys2Proof.Machine.execTimerAttach s
  | .uartReceive byte => Sys2Proof.Machine.execUartReceive byte s
  | .timerAdvance n => Sys2Proof.Machine.execTimerAdvance n s

end Sys2Proof.Machine
end

