-- ==== Sys2Proof/Machine/Step.lean ====
section
/-!
DEFINITION. One step: the block handles the oldest pending stimulus completely (spec/00_scope.md rule R2,
spec/20_memory.md rules R64 and R70).
-/

namespace Sys2Proof.Machine

/-- One step. With nothing pending the block does not move (R2; DEDUCED, safe, log 4). -/
def step (s : State) : Host.Outcome State Fault Refusal :=
  match s.inputs with
  | [] => .next s
  | st :: rest =>
    match decode st with
    | .ok i => exec i { s with inputs := rest }
    | .error e => .refused (.undecodable e)

/-- An address of plain memory under a configuration: the first one from 1 up. The sentinel and the two devices claim at
most seven addresses, so one of 1 to 7 is free. -/
def plainAddr (c : Config) : Addr := ((([1, 2, 3, 4, 5, 6, 7] : List Addr).find? c.isPlain).getD 1)

/-- The stimulus that makes the block perform the operation read from a table word. The operand lines of `MEM.RD` and `MEM.WR`
are zeros there and address 0 is never plain memory (R108), so the two are given the first plain address (log 12). A word
that names no operation becomes the event code that names none, so that the step refuses it by name. -/
def tableStimulus (c : Config) (nbits w : Nat) : Stimulus :=
  match decodeTableWord nbits w with
  | some (.memRd _) => encode c (.memRd (plainAddr c))
  | some (.memWr _ d) => encode c (.memWr (plainAddr c) d)
  | some i => encode c i
  | none => .event ⟨0b11, w⟩

/-- The state with the operation of a table word placed where the next step takes its stimulus: at the front of the
pending stimuli (log 12). -/
def State.withFetchWord (s : State) (nbits w : Nat) : State :=
  { s with inputs := tableStimulus s.cfg nbits w :: s.inputs }

end Sys2Proof.Machine
end

