-- ==== Sys2Proof/Safety.lean ====
section
/-!
DEFINITION. The terms the statements use: which operation a transaction comes down to, runs of operations, the invariants of
spec/10_state.md section 8, and what a safe run is.
-/

namespace Sys2Proof.Machine

/-! ### Leaf operations (spec/30_encoding.md rule R85) -/

/-- The leaf operation a dispatch hands over to; every other operation is its own. -/
def leafOf (c : Config) : Instr → Instr
  | .busRd a => ((c.decodeBus ⟨0, a, 0⟩).toOption).getD (.busRd a)
  | .busWr a d => ((c.decodeBus ⟨1, a, d⟩).toOption).getD (.busWr a d)
  | i => i

/-- The read operation a select hands over to (R85, R100). -/
def selectedRead (a : Addr) : Select → Instr
  | .pin => .pinRd
  | .uart off =>
    if off = 0 then .uartRdControl else if off = 1 then .uartRdTxdata else if off = 2 then .uartRdStatus else .uartRdRxdata
  | .timer off => if off = 0 then .timerRdData else .timerRdControl
  | .mem => .memRd a

/-- The write operation a select hands over to (R85, R101). -/
def selectedWrite (a : Addr) (d : Byte) : Select → Instr
  | .pin => .traceWr d
  | .uart off =>
    if off = 0 then .uartWrControl d else if off = 1 then .uartWrTxdata d
    else if off = 2 then .uartWrStatus d else .uartWrRxdata d
  | .timer off => if off = 0 then .timerWrData d else .timerWrControl d
  | .mem => .memWr a d

/-- The four stimuli a running block accepts: `RD`, `WR`, `RX` and `ADV` (R2). -/
def isStimulus : Instr → Bool
  | .busRd _ => true
  | .busWr _ _ => true
  | .uartReceive _ => true
  | .timerAdvance _ => true
  | _ => false

/-- `RESET` and its two parts (R85). -/
def isAttach : Instr → Bool
  | .reset => true
  | .uartAttach => true
  | .timerAttach => true
  | _ => false

/-! ### Runs of operations -/

/-- Perform operations in the order given, stopping at the first that gives no next state (R70). -/
def execAll : List Instr → State → Host.Outcome State Fault Refusal
  | [], s => .next s
  | i :: rest, s =>
    match exec i s with
    | .next t => execAll rest t
    | .fault r => .fault r
    | .refused r => .refused r

/-- The cycles a run reports: the sum of the arguments of its `ADV`s (R41). -/
def advSum : List Instr → Nat
  | [] => 0
  | .timerAdvance n :: rest => n + advSum rest
  | _ :: rest => advSum rest

/-- The bytes a run transmits, in order (R132). -/
def txBytes (c : Config) : List Instr → List Byte
  | [] => []
  | i :: rest =>
    match leafOf c i with
    | .uartWrTxdata b => b :: txBytes c rest
    | _ => txBytes c rest

/-- A read of any address, or a write that transmits (R132). -/
def isReadOrTransmit (c : Config) (i : Instr) : Bool :=
  match i, leafOf c i with
  | .busRd _, _ => true
  | _, .uartWrTxdata _ => true
  | _, _ => false

/-- A raw write of the serial status register (R127). -/
def isStatusWrite (c : Config) (i : Instr) : Bool :=
  match leafOf c i with
  | .uartWrStatus _ => true
  | _ => false

/-- An operation that can change `uart.rx_data` or the announcement `RDA` of a received byte: a receive, a master reset, a
raw write of the status or of the receive register, or the read that takes the byte (R133). -/
def touchesReceive (c : Config) (i : Instr) : Bool :=
  match leafOf c i with
  | .uartReceive _ => true
  | .uartWrControl d => isMasterReset d
  | .uartWrStatus _ => true
  | .uartWrRxdata _ => true
  | .uartRdRxdata => true
  | _ => false

/-- An operation that can set `RDA`: a receive, or a raw status write with bit 0 set (R133). -/
def setsRda (c : Config) (i : Instr) : Bool :=
  match leafOf c i with
  | .uartReceive _ => true
  | .uartWrStatus d => d.getLsbD 0
  | _ => false

/-- `RDA` as the history of a run gives it: set by a receive, cleared by the read of the receive register and by a master
reset, and otherwise what it was (R39 (b)). -/
def rdaHistory (c : Config) : Bool → List Instr → Bool
  | r, [] => r
  | r, i :: rest =>
    match leafOf c i with
    | .uartReceive _ => rdaHistory c true rest
    | .uartRdRxdata => rdaHistory c false rest
    | .uartWrControl d => rdaHistory c (r && !isMasterReset d) rest
    | _ => rdaHistory c r rest

/-- A write of one address of the bus. -/
def writesAddr (a : Addr) : Instr → Bool
  | .busWr b _ => decide (b = a)
  | _ => false

/-! ### Invariants (spec/10_state.md section 8) -/

/-- R38: the prescaler holds 1 to `P`. -/
def PrescalerInRange (s : State) : Prop := 1 ≤ s.timer.prescaler.toNat ∧ s.timer.prescaler.toNat ≤ s.cfg.prescale

/-- R40: bits 3:0 of `timer.control` are the constant. -/
def ControlNibbleFixed (s : State) : Prop := s.timer.control.extractLsb' 0 4 = BitVec.ofNat 4 s.cfg.psel

/-- R23: the stored `BAUD` field never holds `0b11`. -/
def BaudNotReset (s : State) : Prop := uartBaud s.uart.control ≠ 0b11

/-- The memory is in canonical form. -/
def MemoryCanonical (s : State) : Prop := memWf s.cfg s.mem = true

/-- R39 (a) and (c): `TXE` is 1 and bits 7:2 of the serial status are 0. -/
def StatusQuiescent (s : State) : Prop := uartTxe s.uart.status = true ∧ s.uart.status.extractLsb' 2 6 = 0

/-- Two states that agree on everything but the shadowed bytes of memory (R108). -/
def SameButShadowed (s t : State) : Prop :=
  s.cfg = t.cfg ∧ s.uart = t.uart ∧ s.timer = t.timer ∧ s.cycles = t.cycles ∧ s.attached = t.attached ∧
    s.inputs = t.inputs ∧ s.response = t.response ∧ s.events = t.events ∧
    ∀ a : Addr, s.cfg.isPlain a = true → s.memRead a = t.memRead a

/-- Two states that agree on what the events depend on: the configuration, `RIE`, `ID`, the counter, the prescaler, the cycle
count and the log so far. They may differ in every other bit: all of memory, `tx_data`, `rx_data`, `status`, `BAUD`,
`MODE`, `RTS`, `TMODE`, `PSL`, `PRST` and `IF` (R134, R160). -/
def SameForEvents (s t : State) : Prop :=
  s.cfg = t.cfg ∧ s.attached = t.attached ∧ uartRie s.uart.control = uartRie t.uart.control ∧
    timerId s.timer.control = timerId t.timer.control ∧ s.timer.data = t.timer.data ∧
    s.timer.prescaler = t.timer.prescaler ∧ s.cycles = t.cycles ∧ s.events = t.events

/-! ### Safe runs -/

/-- A stimulus the environment may present to a running block: it decodes, and it is not a second `RESET` (R209, R210). -/
def presentable (st : Stimulus) : Bool :=
  match decode st with
  | .ok i => isStimulus i
  | .error _ => false

end Sys2Proof.Machine
end

