-- ==== Sys2Proof/Certificates/Slice0/Obligations.lean ====
section
/-!
DEFINITION. The statements about the machine, from the numbered rules of spec/. A statement whose docstring says "the spec's own
decision" or "derived" rests on a choice or an inference that the spec marks as its own; OBLIGATIONS.json gives it basis
derived.
-/

open Sys2Proof Sys2Proof.Machine

/-! ### Encoding -/

/-- Words written out from R80, R83, R84 and R85 (the packings are the spec's own decisions D4, D5, D27; logs 11 and 17). -/
def Obligations.SpecWordsDecode : Prop :=
  decodeLocal ⟨0b00000, 0, 0⟩ = .ok .pinRd ∧
  decodeLocal ⟨0b00100, 0, 0xFE⟩ = .ok (.traceWr 0xFE) ∧
  decodeLocal ⟨0b01011, 0, 0⟩ = .ok .uartRdRxdata ∧
  decodeLocal ⟨0b01101, 0, 0x41⟩ = .ok (.uartWrTxdata 0x41) ∧
  decodeLocal ⟨0b10001, 0, 0⟩ = .ok .timerRdControl ∧
  decodeLocal ⟨0b10101, 0, 0x08⟩ = .ok (.timerWrControl 0x08) ∧
  decodeLocal ⟨0b11000, 0x0100, 0⟩ = .ok (.memRd 0x0100) ∧
  decodeLocal ⟨0b11100, 0x0100, 0x5A⟩ = .ok (.memWr 0x0100 0x5A) ∧
  decode (.bus (Transaction.ofWord 0b1000000010000000001011010)) = .ok (.busWr 0x0100 0x5A) ∧
  decode (.bus (Transaction.ofWord 0b0100000000000001100000000)) = .ok (.busRd 0x8003) ∧
  decode (.event ⟨0b00, 0⟩) = .ok .reset ∧
  decode (.event ⟨0b01, 0x61⟩) = .ok (.uartReceive 0x61) ∧
  decode (.event ⟨0b10, 1028⟩) = .ok (.timerAdvance 1028)

/-- Decode after encode over the local words: each of the sixteen leaf operations, with every operand, is what its word `L`
and its operand lines decode to. -/
def Obligations.LeafWordsRoundTrip : Prop :=
  ∀ i : Instr, isStimulus i = false → isAttach i = false →
    ∃ w, encodeLocal i = some w ∧ decodeLocal w = .ok i

/-- Decode after encode over the bus: under every configuration, each leaf operation some address selects is what both decode
stages read from the transaction that encodes it, with every operand. -/
def Obligations.LeafTransactionsRoundTrip : Prop :=
  ∀ (c : Config) (i : Instr), i.wellFormed c = true → isStimulus i = false → isAttach i = false →
    ∃ t, encode c i = .bus t ∧ c.decodeBus t = .ok i

/-- Decode after encode over the stimuli `RD`, `WR`, `RX`, `ADV` and `RESET`, with every operand. -/
def Obligations.StimuliRoundTrip : Prop :=
  ∀ (c : Config) (i : Instr), (isStimulus i = true ∨ i = .reset) → decode (encode c i) = .ok i

/-- The transaction word `T` of 25 bits and its three fields say the same (R80; the packing is the spec's own decision
D27). -/
def Obligations.TransactionWordRoundTrip : Prop :=
  (∀ t : Transaction, Transaction.ofWord t.toWord = t) ∧ (∀ w : BitVec 25, (Transaction.ofWord w).toWord = w)

/-- Both decode stages agree with the operation map: a read transaction decodes to the read its select names, a write
transaction to the write, and what it decodes to is well-formed; so the decoder is total (R88, derived; R85 is the spec's
own decision D4, D5). -/
def Obligations.EveryTransactionDecodes : Prop :=
  ∀ (c : Config) (a : Addr) (d : Byte),
    c.decodeBus ⟨0, a, d⟩ = .ok (selectedRead a (c.select a)) ∧
    c.decodeBus ⟨1, a, d⟩ = .ok (selectedWrite a d (c.select a)) ∧
    (selectedRead a (c.select a)).wellFormed c = true ∧ (selectedWrite a d (c.select a)).wellFormed c = true

/-- The words that name no operation are refused by name: `L = 10 x 1x` (R87, the spec's own decision D25), `E = 11` (R88,
derived), an `RX` operand wider than a byte and a `RESET` operand (the model's choice, log 14). -/
def Obligations.NamelessWordsRefused : Prop :=
  (∀ w : LocalWord, w.bits.extractLsb' 3 2 = 0b10 → w.bits.getLsbD 1 = true →
    decodeLocal w = .error .noSuchOperation) ∧
  (∀ n, decode (.event ⟨0b11, n⟩) = .error .noSuchEvent) ∧
  (∀ n, 256 ≤ n → decode (.event ⟨0b01, n⟩) = .error .operandTooWide) ∧
  (∀ n, n ≠ 0 → decode (.event ⟨0b00, n⟩) = .error .strayOperand)

/-- R81: the address decoder tests the sentinel, the serial range, the timer range, in this order; the upper bounds do not
exceed 0x10000, exactly one select is produced, and the order of the two device tests does not matter because no address
lies in both ranges. The address and the spans are the named parameters of R5. -/
def Obligations.AddressDecoderPriority : Prop :=
  ∀ (c : Config) (a : Addr),
    (c.select a = .pin ↔ a = pinAddr) ∧
    ((∃ off, c.select a = .uart off) ↔
      a ≠ pinAddr ∧ c.uartBase ≤ a.toNat ∧ a.toNat < c.uartBase + uartSpan) ∧
    ((∃ off, c.select a = .timer off) ↔
      a ≠ pinAddr ∧ ¬(c.uartBase ≤ a.toNat ∧ a.toNat < c.uartBase + uartSpan) ∧
        c.timerBase ≤ a.toNat ∧ a.toNat < c.timerBase + timerSpan) ∧
    (c.select a = .mem ↔
      a ≠ pinAddr ∧ ¬(c.uartBase ≤ a.toNat ∧ a.toNat < c.uartBase + uartSpan) ∧
        ¬(c.timerBase ≤ a.toNat ∧ a.toNat < c.timerBase + timerSpan)) ∧
    c.uartBase + uartSpan ≤ 0x10000 ∧ c.timerBase + timerSpan ≤ 0x10000 ∧
    ¬((c.uartBase ≤ a.toNat ∧ a.toNat < c.uartBase + uartSpan) ∧
      (c.timerBase ≤ a.toNat ∧ a.toNat < c.timerBase + timerSpan))

/-- R82: the register offset is `addr - base`, exact, 0 to 3 for the serial device and 0 to 1 for the timer; for the sentinel
and plain memory it is 0 and the whole address is passed on; the operation of a device access depends on the offset
alone, whatever the address and the configuration. -/
def Obligations.RegisterOffsetsExact : Prop :=
  (∀ (c : Config) (a : Addr) (off : BitVec 2), c.select a = .uart off → off.toNat + c.uartBase = a.toNat) ∧
  (∀ (c : Config) (a : Addr) (off : BitVec 1), c.select a = .timer off → off.toNat + c.timerBase = a.toNat) ∧
  (∀ (c : Config) (t : Transaction), c.select t.addr = .pin ∨ c.select t.addr = .mem →
    (c.stage1 t).bits.extractLsb' 0 2 = 0 ∧ (c.stage1 t).addr = t.addr) ∧
  (∀ (c c' : Config) (t t' : Transaction) (off : BitVec 2), c.select t.addr = .uart off →
    c'.select t'.addr = .uart off → t.rw = t'.rw → t.data = t'.data → c.decodeBus t = c'.decodeBus t') ∧
  (∀ (c c' : Config) (t t' : Transaction) (off : BitVec 1), c.select t.addr = .timer off →
    c'.select t'.addr = .timer off → t.rw = t'.rw → t.data = t'.data → c.decodeBus t = c'.decodeBus t')

/-- R109: a configuration with overlapping device ranges is not well-formed and the block does not exist for it; under every
configuration no address lies in both ranges. -/
def Obligations.OverlappingRangesRefused : Prop :=
  (∀ (p : Params) (a : Nat), p.uartBase ≤ a → a < p.uartBase + uartSpan → p.timerBase ≤ a → a < p.timerBase + timerSpan →
    p.wellFormed = false ∧ Config.ofParams p = none) ∧
  (∀ (c : Config) (a : Nat), c.uartBase ≤ a → a < c.uartBase + uartSpan →
    ¬(c.timerBase ≤ a ∧ a < c.timerBase + timerSpan))

/-! ### The step -/

/-- A step runs the operation decoded from the oldest pending stimulus, on the state without that stimulus. The list of
pending stimuli is the model's choice (log 3): the spec presents stimuli one at a time and names no queue. -/
def Obligations.StepRunsDecoded : Prop :=
  ∀ (s : State) (st : Stimulus) (rest : List Stimulus) (i : Instr),
    s.inputs = st :: rest → decode st = .ok i → step s = exec i { s with inputs := rest }

/-- With nothing pending the block does not move (R2; the model's reading, log 4), and a stimulus that decodes to nothing is
refused by name (log 14). The list of pending stimuli is the model's choice (log 3). -/
def Obligations.StepIdleOrUndecodable : Prop :=
  (∀ s : State, s.inputs = [] → step s = .next s) ∧
  (∀ (s : State) (st : Stimulus) (rest : List Stimulus) (e : DecodeError),
    s.inputs = st :: rest → decode st = .error e → step s = .refused (.undecodable e))

/-- R180: once RESET has been performed every `RD`, `WR`, `RX` and `ADV` gives a next state, an `RD` with a byte; no operation
ever faults. -/
def Obligations.NoOperationFails : Prop :=
  (∀ (i : Instr) (s : State) (r : Fault), exec i s ≠ .fault r) ∧
  (∀ s : State, s.attached = true →
    (∀ a, ∃ t v, exec (.busRd a) s = .next t ∧ t.response = some v) ∧
    (∀ a d, ∃ t, exec (.busWr a d) s = .next t) ∧
    (∀ b, ∃ t, exec (.uartReceive b) s = .next t) ∧
    (∀ n, ∃ t, exec (.timerAdvance n) s = .next t))

/-- A run of stimuli that decode and hold no second RESET never stops, however long, and stays after RESET: every step gives
a next state (R2, R180, R209). That each step takes one stimulus from a list of pending ones, so that `k` steps drop `k`, is
the model's choice (log 3), and so are the steps beyond the end of the list, which change nothing (log 4). -/
def Obligations.PresentableRunsNeverStop : Prop :=
  ∀ (k : Nat) (s : State), s.attached = true → (∀ st ∈ s.inputs, presentable st = true) →
    ∃ t : State, core.run k s = .next t ∧ t.attached = true ∧ t.inputs = s.inputs.drop k

/-- No operation changes the configuration, and none undoes RESET (R89, R201, R210); none changes the pending stimuli either.
The fields `cfg`, `inputs` and `attached` are the model's own (logs 1, 3, 5). -/
def Obligations.ConfigurationFixed : Prop :=
  ∀ (i : Instr) (s t : State), exec i s = .next t →
    t.cfg = s.cfg ∧ t.inputs = s.inputs ∧ (s.attached = true → t.attached = true)

/-! ### Reset -/

/-- The state after RESET (R37; the values other than `TXE`, `RDA`, `IF`, `ID`, the counter and the prescaler are the spec's
own decision D15, log 8; `cycles` D21). -/
def Obligations.ResetStateValues : Prop :=
  State.reset.uart.status = 0x02 ∧ State.reset.uart.control = 0x00 ∧ State.reset.uart.txData = 0x00 ∧
  State.reset.uart.rxData = 0x00 ∧ State.reset.timer.data = 0x00 ∧
  State.reset.timer.control = 0xC0 ||| BitVec.ofNat 8 State.reset.cfg.psel ∧
  State.reset.timer.prescaler.toNat = State.reset.cfg.prescale ∧ State.reset.cycles = 0 ∧
  (∀ a : Addr, State.reset.memRead a = State.reset.cfg.imageByte a.toNat) ∧
  State.reset.attached = true ∧ State.reset.events = []

/-- The invariants hold right after RESET (R38, R40, R23, and the canonical form of memory, log 9), under every
configuration. -/
def Obligations.InvariantsAtReset : Prop :=
  ∀ c : Config, PrescalerInRange (State.afterReset c) ∧ ControlNibbleFixed (State.afterReset c) ∧
    BaudNotReset (State.afterReset c) ∧ MemoryCanonical (State.afterReset c) ∧ StatusQuiescent (State.afterReset c) ∧
    State.reset = State.afterReset State.reset.cfg

/-- RESET leaves the reset state of the configuration whatever was there before, and emits nothing (R200, the spec's own
decision D29; the pending stimuli and the log are the environment's, log 5). -/
def Obligations.ResetEffect : Prop :=
  ∀ s : State, s.attached = false →
    exec .reset s = .next { State.afterReset s.cfg with inputs := s.inputs, events := s.events }

/-- The two parts of RESET write the registers of their device and nothing else (R120, R150, the spec's own decision D15; that
they run by themselves only before RESET is the model's choice, log 6). -/
def Obligations.AttachEffects : Prop :=
  ∀ s : State, s.attached = false →
    exec .uartAttach s =
      .next { s with response := none, uart := { control := 0x00, txData := 0x00, status := 0x02, rxData := 0x00 } } ∧
    exec .timerAttach s =
      .next { s with
        response := none
        timer := { data := 0x00, control := 0xC0 ||| BitVec.ofNat 8 s.cfg.psel,
                   prescaler := BitVec.ofNat 7 s.cfg.prescale } }

/-- When an operation is refused, and that otherwise it completes. RESET and its parts are refused once RESET has been performed
(R201, the spec's own decision D29); every other operation is refused before RESET (R204; kept as one bit of state by
the model, log 5); MEM.RD and MEM.WR are refused for an address that is not plain memory (the model's reading of "with sel
= MEM", log 13); in every other case the operation gives a next state. -/
def Obligations.RefusalConditions : Prop :=
  (∀ (i : Instr) (s : State), isAttach i = true → s.attached = true → exec i s = .refused .secondReset) ∧
  (∀ (i : Instr) (s : State), isAttach i = false → i.wellFormed s.cfg = true → s.attached = false →
    exec i s = .refused .beforeReset) ∧
  (∀ (s : State) (a : Addr) (d : Byte), s.cfg.isPlain a = false →
    exec (.memRd a) s = .refused .memNotSelected ∧ exec (.memWr a d) s = .refused .memNotSelected) ∧
  (∀ (i : Instr) (s : State), isAttach i ≠ s.attached → i.wellFormed s.cfg = true → ∃ t, exec i s = .next t)

/-! ### The sentinel -/

/-- `PIN.RD` and `TRACE.WR` (R102, R103; the traced bit is the spec's own decision D12, the single address D13, log 20). -/
def Obligations.PinOperations : Prop :=
  ∀ s : State, s.attached = true →
    exec .pinRd s = .next { s with response := some s.cfg.pinReadValue } ∧
    ∀ d : Byte, exec (.traceWr d) s =
      .next { s with response := none, events := s.events ++ [.trace s.cycles (d.getLsbD 0)] }

/-- R32: neither pin is state. The read answers the same byte in any two states of one configuration, and a trace write leaves
every element of the state as it was. -/
def Obligations.PinsAreNotState : Prop :=
  (∀ s s' : State, s.attached = true → s'.attached = true → s.cfg = s'.cfg →
    ∃ t t', exec .pinRd s = .next t ∧ exec .pinRd s' = .next t' ∧ t.response = t'.response ∧
      t.response = some s.cfg.pinReadValue) ∧
  (∀ (s : State) (d : Byte), s.attached = true →
    ∃ t e, exec (.traceWr d) s = .next t ∧ t.events = s.events ++ [e] ∧
      t = { s with response := t.response, events := t.events })

/-! ### Plain memory -/

/-- `L = 11 0 xx` is `MEM.RD`; it answers the byte and changes nothing; done twice it answers the same; after a write of the
address it answers the written byte (R104; the select codes are the spec's own decision D27). -/
def Obligations.PlainMemoryRead : Prop :=
  (∀ w : LocalWord, w.bits.extractLsb' 2 3 = 0b110 → decodeLocal w = .ok (.memRd w.addr)) ∧
  (∀ (s : State) (a : Addr), s.attached = true → s.cfg.select a = .mem →
    exec (.memRd a) s = .next { s with response := some (s.memRead a) } ∧
    exec (.memRd a) { s with response := some (s.memRead a) } = .next { s with response := some (s.memRead a) } ∧
    ∀ d : Byte, ∃ t u, exec (.memWr a d) s = .next t ∧ exec (.memRd a) t = .next u ∧ u.response = some d)

/-- `MEM.WR` stores its byte at its address, leaves every other byte, and changes nothing else (R105, the spec's own decision
D2). -/
def Obligations.PlainMemoryWrite : Prop :=
  ∀ (s : State) (a : Addr) (d : Byte), s.attached = true → s.cfg.select a = .mem →
    ∃ t, exec (.memWr a d) s = .next t ∧ t.memRead a = d ∧ (∀ b : Addr, b ≠ a → t.memRead b = s.memRead b) ∧
      t = { s with response := none, mem := t.mem }

/-- A byte written to plain memory over the bus is what a later read of that address answers, whatever stimuli fall between
that do not write it (R70 (a)). -/
def Obligations.ReadReturnsLatestWrite : Prop :=
  ∀ (s : State) (a : Addr) (d : Byte) (between : List Instr), s.attached = true → s.cfg.isPlain a = true →
    (∀ i ∈ between, isStimulus i = true ∧ writesAddr a i = false) →
    ∃ t, execAll (.busWr a d :: between ++ [.busRd a]) s = .next t ∧ t.response = some d

/-! ### The serial device -/

/-- The four register reads (R121 to R124; offsets are the spec's own decisions D4, D19): only the read of `rx_data` changes
anything, and it clears `RDA` alone. -/
def Obligations.UartReadEffects : Prop :=
  ∀ s : State, s.attached = true →
    exec .uartRdControl s = .next { s with response := some s.uart.control } ∧
    exec .uartRdTxdata s = .next { s with response := some s.uart.txData } ∧
    exec .uartRdStatus s = .next { s with response := some s.uart.status } ∧
    exec .uartRdRxdata s =
      .next { s with response := some s.uart.rxData, uart := { s.uart with status := s.uart.status &&& 0xFE } }

/-- The control write: the master reset pattern in bits 1:0 sets the status to 0x02 and stores the byte without those bits;
any other byte is stored raw (R125, the spec's own decision D17). -/
def Obligations.UartControlWriteEffect : Prop :=
  ∀ (s : State) (d : Byte), s.attached = true →
    exec (.uartWrControl d) s =
      .next { s with
        response := none
        uart := if d.extractLsb' 0 2 = 0b11 then { s.uart with status := 0x02, control := d &&& 0xFC }
                else { s.uart with control := d } }

/-- The transmit write: the byte is stored, one `TX` event is emitted, `TXE` is 1 afterwards whatever it was, and the other
status bits stand (R126, the spec's own decisions D19, D30). -/
def Obligations.UartTransmitEffect : Prop :=
  ∀ (s : State) (d : Byte), s.attached = true →
    exec (.uartWrTxdata d) s =
      .next { s with
        response := none
        uart := { s.uart with txData := d, status := s.uart.status ||| 0x02 }
        events := s.events ++ [.tx d] }

/-- The raw writes of the status and of the receive register (R127, R128; offsets are the spec's own decisions D4, D19). -/
def Obligations.UartRawWriteEffects : Prop :=
  ∀ (s : State) (d : Byte), s.attached = true →
    exec (.uartWrStatus d) s = .next { s with response := none, uart := { s.uart with status := d } } ∧
    exec (.uartWrRxdata d) s = .next { s with response := none, uart := { s.uart with rxData := d } }

/-- A receive: the byte is held, `RDA` is set, the other status bits stand, and `IRQ_UART_RX` is emitted if and only if `RIE` is
1 (R129, the spec's own decision D18). -/
def Obligations.UartReceiveEffect : Prop :=
  ∀ (s : State) (b : Byte), s.attached = true →
    exec (.uartReceive b) s =
      .next { s with
        response := none
        uart := { s.uart with rxData := b, status := s.uart.status ||| 0x01 }
        events := if s.uart.control.getLsbD 7 then s.events ++ [.irqUartRx] else s.events }

/-- Transmit law: over any run of reads and transmitting writes from a state with `TXE` = 1, the log gains exactly the
transmitted bytes in order, and `TXE` is 1 after it (R132, derived). -/
def Obligations.TransmitLaw : Prop :=
  ∀ (s : State) (is : List Instr), s.attached = true → uartTxe s.uart.status = true →
    (∀ i ∈ is, isReadOrTransmit s.cfg i = true) →
    ∃ t, execAll is s = .next t ∧ t.events = s.events ++ (txBytes s.cfg is).map .tx ∧ uartTxe t.uart.status = true

/-- Receive law. After a receive and any stimuli that do not touch the receive side, the read of `rx_data` answers that byte and
leaves `RDA` = 0; and once `RDA` is 0 it stays 0 over any stimuli that hold no receive and no raw status write with bit 0
set (R133, derived). -/
def Obligations.ReceiveLaw : Prop :=
  (∀ (s : State) (b : Byte) (between : List Instr), s.attached = true →
    (∀ i ∈ between, isStimulus i = true ∧ touchesReceive s.cfg i = false) →
    ∃ t, execAll (.uartReceive b :: between ++ [.uartRdRxdata]) s = .next t ∧ t.response = some b ∧
      uartRda t.uart.status = false) ∧
  (∀ (s : State) (is : List Instr), s.attached = true → uartRda s.uart.status = false →
    (∀ i ∈ is, isStimulus i = true ∧ setsRda s.cfg i = false) →
    ∃ t, execAll is s = .next t ∧ uartRda t.uart.status = false)

/-- `RDA` is the history of receives, reads of `rx_data` and master resets, over every run of stimuli without a raw status
write (R39 (b), derived). -/
def Obligations.RdaIsHistory : Prop :=
  ∀ (s : State) (is : List Instr), s.attached = true →
    (∀ i ∈ is, isStimulus i = true ∧ isStatusWrite s.cfg i = false) →
    ∃ t, execAll is s = .next t ∧ uartRda t.uart.status = rdaHistory s.cfg (uartRda s.uart.status) is

/-- `TXE` = 1 and bits 7:2 of the status = 0 are kept by every operation but a raw status write (R39 (a) and (c), derived). -/
def Obligations.StatusQuiescentKept : Prop :=
  ∀ (i : Instr) (s t : State), isStatusWrite s.cfg i = false → StatusQuiescent s → exec i s = .next t → StatusQuiescent t

/-! ### The timer -/

/-- The two register reads (R151, R152; offsets and positions are the spec's own decisions D5, D8). -/
def Obligations.TimerReadEffects : Prop :=
  ∀ s : State, s.attached = true →
    exec .timerRdData s = .next { s with response := some s.timer.data } ∧
    exec .timerRdControl s = .next { s with response := some (s.timer.control &&& 0xF7) }

/-- The two register writes (R153, R154; the spec's own decisions D5, D8, D10, D28). -/
def Obligations.TimerWriteEffects : Prop :=
  ∀ (s : State) (d : Byte), s.attached = true →
    exec (.timerWrData d) s = .next { s with response := none, timer := { s.timer with data := d } } ∧
    exec (.timerWrControl d) s =
      .next { s with
        response := none
        timer := { data := s.timer.data
                   control := (d &&& 0xF0) ||| BitVec.ofNat 8 s.cfg.psel
                   prescaler := if d.getLsbD 3 then BitVec.ofNat 7 s.cfg.prescale else s.timer.prescaler } }

/-- One elapsed cycle (R155, the spec's own decisions D16, D20): the prescaler counts down; at 0 it is reloaded and the counter
steps; from 0 the counter goes to 0xFF, `IF` is set, and `IRQ_TIMER` is emitted unless `ID` is 1. -/
def Obligations.TimerOneCycle : Prop :=
  ∀ s : State, s.attached = true →
    (PrescalerInRange s → s.timer.prescaler ≠ 1 → exec (.timerAdvance 1) s =
      .next { s with
        response := none, cycles := s.cycles + 1
        timer := { s.timer with prescaler := s.timer.prescaler - 1 } }) ∧
    (s.timer.prescaler = 1 → s.timer.data ≠ 0x00 → exec (.timerAdvance 1) s =
      .next { s with
        response := none, cycles := s.cycles + 1
        timer := { s.timer with prescaler := BitVec.ofNat 7 s.cfg.prescale, data := s.timer.data - 1 } }) ∧
    (s.timer.prescaler = 1 → s.timer.data = 0x00 → exec (.timerAdvance 1) s =
      .next { s with
        response := none, cycles := s.cycles + 1
        timer := { data := 0xFF, control := s.timer.control ||| 0x80
                   prescaler := BitVec.ofNat 7 s.cfg.prescale }
        events := if s.timer.control.getLsbD 6 then s.events else s.events ++ [.irqTimer] })

/-- Splitting: `ADV(a)` then `ADV(b)` is `ADV(a + b)`, in the whole state and the log; `ADV(0)` changes nothing but that it is
answered by nothing (R163, R155 case (a), derived). -/
def Obligations.AdvanceSplits : Prop :=
  (∀ (s : State) (a b : Nat), execAll [.timerAdvance a, .timerAdvance b] s = exec (.timerAdvance (a + b)) s) ∧
  (∀ s : State, s.attached = true → exec (.timerAdvance 0) s = .next { s with response := none })

/-- The closed form of the advance is the per-cycle loop, for every count, from every state whose prescaler holds 1 to `P`
(R156, derived). -/
def Obligations.AdvanceClosedForm : Prop :=
  ∀ (s : State) (n : Nat), s.attached = true → PrescalerInRange s →
    exec (.timerAdvance n) s =
      .next { s with
        response := none
        cycles := s.cycles + n
        timer :=
          { data := BitVec.ofNat 8
              (closedData s.timer.data.toNat (closedTicks s.cfg.prescale s.timer.prescaler.toNat n))
            control :=
              if 1 ≤ closedUnderflows s.timer.data.toNat
                  (closedTicks s.cfg.prescale s.timer.prescaler.toNat n)
              then s.timer.control ||| 0x80 else s.timer.control
            prescaler := BitVec.ofNat 7 (closedPrescaler s.cfg.prescale s.timer.prescaler.toNat n) }
        events := s.events ++
          (if s.timer.control.getLsbD 6 then []
           else List.replicate (closedUnderflows s.timer.data.toNat
             (closedTicks s.cfg.prescale s.timer.prescaler.toNat n)) .irqTimer) }

/-- Periods: with `ID` = 0, from prescaler `p` and counter `d`, the first `IRQ_TIMER` falls on cycle `p + d * P` and later ones
every `256 * P` cycles (R157, derived). -/
def Obligations.UnderflowPeriods : Prop :=
  ∀ (s : State) (n : Nat), s.attached = true → PrescalerInRange s → timerId s.timer.control = false →
    ∃ t, exec (.timerAdvance n) s = .next t ∧
      t.events = s.events ++ List.replicate
        (if n < s.timer.prescaler.toNat + s.timer.data.toNat * s.cfg.prescale then 0
         else 1 + (n - (s.timer.prescaler.toNat + s.timer.data.toNat * s.cfg.prescale)) / (256 * s.cfg.prescale))
        .irqTimer

/-- The test that fixes the period: from counter 1, the prescaler at `P` and `IF` = 0, exactly `2 * P` cycles set `IF` and wrap
the counter to 0xFF, and one cycle fewer leaves `IF` = 0 and the counter at 0 (R155, the spec's own decision D16). -/
def Obligations.TwoPeriodsSetTheFlag : Prop :=
  ∀ s : State, s.attached = true → s.timer.data = 1 → s.timer.prescaler = BitVec.ofNat 7 s.cfg.prescale →
    timerIf s.timer.control = false →
    (∃ t, exec (.timerAdvance (2 * s.cfg.prescale)) s = .next t ∧ t.timer.data = 0xFF ∧
      timerIf t.timer.control = true) ∧
    (∃ t, exec (.timerAdvance (2 * s.cfg.prescale - 1)) s = .next t ∧ t.timer.data = 0x00 ∧
      timerIf t.timer.control = false)

/-- Flag law: an operation raises `IF` only as an attach, a control write with bit 7 set, or an advance that reaches the
underflow, and lowers it only as a control write with bit 7 clear (R159, derived). -/
def Obligations.TimerFlagLaw : Prop :=
  ∀ (i : Instr) (s t : State), PrescalerInRange s → exec i s = .next t →
    (timerIf s.timer.control = false → timerIf t.timer.control = true →
      i = .reset ∨ i = .timerAttach ∨ (∃ d, leafOf s.cfg i = .timerWrControl d ∧ d.getLsbD 7 = true) ∨
      (∃ n, i = .timerAdvance n ∧ s.timer.prescaler.toNat + s.timer.data.toNat * s.cfg.prescale ≤ n)) ∧
    (timerIf s.timer.control = true → timerIf t.timer.control = false →
      ∃ d, leafOf s.cfg i = .timerWrControl d ∧ d.getLsbD 7 = false)

/-- The prescaler-reset bit: a control write with bit 3 set leaves the prescaler at `P`, writing it twice is as writing it
once, and every control write reads back as its high nibble with the constant's low three bits, bit 3 reading 0
(R158, R215, derived). -/
def Obligations.PrescalerResetLaw : Prop :=
  ∀ (s : State) (d : Byte), s.attached = true →
    ∃ t, exec (.timerWrControl d) s = .next t ∧ exec (.timerWrControl d) t = .next t ∧
      (d.getLsbD 3 = true → t.timer.prescaler = BitVec.ofNat 7 s.cfg.prescale) ∧
      exec .timerRdControl t =
        .next { t with response := some ((d &&& 0xF0) ||| (BitVec.ofNat 8 s.cfg.psel &&& 0x07)) }

/-- Reporting an interrupt condition enters no trap (R187, R129, R155). A receive and an advance leave `RIE`, `ID` and every state of the
other owners as they are, so a second condition is reported before the first has been handled: two receives with `RIE` =
1 report twice, and two underflows with `ID` = 0 report twice although `IF` is still 1. -/
def Obligations.ReportingEntersNoTrap : Prop :=
  (∀ (s : State) (b c : Byte), s.attached = true → uartRie s.uart.control = true →
    ∃ t u, exec (.uartReceive b) s = .next t ∧ exec (.uartReceive c) t = .next u ∧
      u.events = s.events ++ [.irqUartRx, .irqUartRx] ∧ u.uart.control = s.uart.control ∧
      u.uart.txData = s.uart.txData ∧ u.timer = s.timer ∧ u.mem = s.mem ∧ u.cycles = s.cycles ∧ u.cfg = s.cfg) ∧
  (∀ s : State, s.attached = true → PrescalerInRange s → timerId s.timer.control = false →
    ∃ t u,
      exec (.timerAdvance (s.timer.prescaler.toNat + s.timer.data.toNat * s.cfg.prescale)) s = .next t ∧
      exec (.timerAdvance (256 * s.cfg.prescale)) t = .next u ∧
      timerIf t.timer.control = true ∧ t.events = s.events ++ [.irqTimer] ∧ u.events = t.events ++ [.irqTimer] ∧
      timerId u.timer.control = false ∧ u.uart = s.uart ∧ u.mem = s.mem ∧ u.cfg = s.cfg)

/-! ### Invariants of every step -/

/-- Every step keeps the prescaler in 1 to `P` (R38, derived). -/
def Obligations.PrescalerRangeKept : Prop :=
  ∀ s t : State, PrescalerInRange s → step s = .next t → PrescalerInRange t

/-- Every step keeps bits 3:0 of `timer.control` at the constant (R40, derived), and the stored baud-select field from holding
the reset pattern (R23, the spec's own decision D7). -/
def Obligations.ForcedFieldsKept : Prop :=
  (∀ s t : State, ControlNibbleFixed s → step s = .next t → ControlNibbleFixed t) ∧
  (∀ s t : State, BaudNotReset s → step s = .next t → BaudNotReset t)

/-- Every step keeps the memory in canonical form (the model's representation, log 9). -/
def Obligations.MemoryCanonicalKept : Prop :=
  ∀ s t : State, MemoryCanonical s → step s = .next t → MemoryCanonical t

/-! ### The bus -/

/-- `BUS.RD` performs the read its select names, answers its byte, emits nothing, and changes no state unless that read is
`UART.RD.RXDATA` (R100; the register map is the spec's own decision D4, D5, D19). -/
def Obligations.BusReadDispatch : Prop :=
  ∀ (s : State) (a : Addr), s.attached = true →
    ∃ t v, exec (.busRd a) s = .next t ∧ exec (selectedRead a (s.cfg.select a)) s = .next t ∧ t.response = some v ∧
      t.events = s.events ∧
      (selectedRead a (s.cfg.select a) ≠ .uartRdRxdata → t = { s with response := some v })

/-- `BUS.WR` performs the write its select names; exactly that owner receives it and the other three see nothing: no state of
theirs changes and they emit nothing; no write reports an interrupt condition, whoever receives it (R101; the register
map is the spec's own decision D4, D5, D19). -/
def Obligations.BusWriteDispatch : Prop :=
  ∀ (s : State) (a : Addr) (d : Byte), s.attached = true →
    ∃ t es, exec (.busWr a d) s = .next t ∧ exec (selectedWrite a d (s.cfg.select a)) s = .next t ∧ t.cycles = s.cycles ∧
      t.events = s.events ++ es ∧ .irqUartRx ∉ es ∧ .irqTimer ∉ es ∧
      (s.cfg.select a ≠ .pin → ∀ c b, .trace c b ∉ es) ∧
      (s.cfg.select a ≠ .mem → t.mem = s.mem) ∧
      ((∀ off, s.cfg.select a ≠ .uart off) → t.uart = s.uart ∧ ∀ b, .tx b ∉ es) ∧
      ((∀ off, s.cfg.select a ≠ .timer off) → t.timer = s.timer)

/-- The read multiplexer: the byte every address answers (R106, derived). -/
def Obligations.ReadMultiplexer : Prop :=
  ∀ (s : State) (a : Addr), s.attached = true →
    ∃ t, exec (.busRd a) s = .next t ∧ t.response = some
      (if a.toNat = 0 then s.cfg.pinReadValue
       else if a.toNat = s.cfg.uartBase then s.uart.control
       else if a.toNat = s.cfg.uartBase + 1 then s.uart.txData
       else if a.toNat = s.cfg.uartBase + 2 then s.uart.status
       else if a.toNat = s.cfg.uartBase + 3 then s.uart.rxData
       else if a.toNat = s.cfg.timerBase then s.timer.data
       else if a.toNat = s.cfg.timerBase + 1 then s.timer.control &&& 0xF7
       else s.memRead a)

/-- Exactly one address has a side effect when read, `UART_BASE + 3`, which clears `RDA`; every other read changes no state and
is idempotent; that one answers the same byte twice (R65; the offset is the spec's own decision D4, D19). -/
def Obligations.ReadSideEffects : Prop :=
  ∀ (s : State) (a : Addr), s.attached = true →
    ∃ t t', exec (.busRd a) s = .next t ∧ exec (.busRd a) t = .next t' ∧ t'.response = t.response ∧
      (a.toNat ≠ s.cfg.uartBase + 3 → t = { s with response := t.response }) ∧
      (a.toNat = s.cfg.uartBase + 3 →
        t = { s with response := t.response, uart := { s.uart with status := s.uart.status &&& 0xFE } } ∧
        (s.uart.status.getLsbD 0 = true → t.uart ≠ s.uart))

/-- Isolation: a transaction changes the state of its owner only and never the cycle counter; every byte of memory stands but
the one a write to plain memory stores to, and a read leaves them all (R107, derived). -/
def Obligations.BusIsolation : Prop :=
  ∀ (s t : State) (i : Instr) (a : Addr), (i = .busRd a ∨ ∃ d, i = .busWr a d) → exec i s = .next t →
    t.cycles = s.cycles ∧ t.cfg = s.cfg ∧ t.attached = s.attached ∧ t.inputs = s.inputs ∧
    (s.cfg.isPlain a = true → t.uart = s.uart ∧ t.timer = s.timer) ∧
    (i = .busRd a ∨ s.cfg.isPlain a = false → ∀ b : Addr, t.memRead b = s.memRead b) ∧
    (∀ d, i = .busWr a d → ∀ b : Addr, b ≠ a → t.memRead b = s.memRead b) ∧
    (a ≠ 0 → s.cfg.inUart a = true → t.timer = s.timer) ∧
    (a ≠ 0 → s.cfg.inTimer a = true → t.uart = s.uart) ∧
    (a = 0 → t.uart = s.uart ∧ t.timer = s.timer)

/-- Shadowing: the bytes of memory at address 0 and inside the device ranges are never read and never written. Two states that
differ in nothing else stay so over every run of stimuli, with the same answers and the same events, and each keeps its
own shadowed bytes (R108, derived). -/
def Obligations.ShadowedBytesUnobservable : Prop :=
  ∀ (s s' : State) (is : List Instr), s.attached = true → SameButShadowed s s' →
    (∀ i ∈ is, isStimulus i = true) →
    ∃ t t', execAll is s = .next t ∧ execAll is s' = .next t' ∧ SameButShadowed t t' ∧
      ∀ a : Addr, s.cfg.isPlain a = false → t.memRead a = s.memRead a ∧ t'.memRead a = s'.memRead a

/-- What the events do not depend on: two states that agree on the configuration, `RIE`, `ID`, the counter, the prescaler, the
cycle count and the log stay so over every run of stimuli; the other status and control bits, the data registers and all
of memory have no effect on any event or on the count (R134, R160). -/
def Obligations.StorageBitsHaveNoBehaviour : Prop :=
  ∀ (s s' : State) (is : List Instr), s.attached = true → SameForEvents s s' →
    (∀ i ∈ is, isStimulus i = true) →
    ∃ t t', execAll is s = .next t ∧ execAll is s' = .next t' ∧ SameForEvents t t'

/-! ### Outputs and frames -/

/-- The events of an operation: a transmit write emits its one `TX`, a trace write its one `TRACE`, a receive `IRQ_UART_RX` or
nothing, an advance only `IRQ_TIMER`s and none if `ID` is 1, every other operation nothing; and the log only grows
(R186, R183, the spec's own decision D26). -/
def Obligations.EventsOfOperations : Prop :=
  ∀ (i : Instr) (s t : State), exec i s = .next t →
    ∃ es, t.events = s.events ++ es ∧
      match leafOf s.cfg i with
      | .uartWrTxdata d => es = [.tx d]
      | .traceWr d => es = [.trace s.cycles (d.getLsbD 0)]
      | .uartReceive _ => es = if s.uart.control.getLsbD 7 then [.irqUartRx] else []
      | .timerAdvance _ => (∀ e ∈ es, e = .irqTimer) ∧ (s.timer.control.getLsbD 6 = true → es = [])
      | _ => es = []

/-- `cycles` counts the arguments of every `ADV` and nothing else, over every run of stimuli (R41, R161, derived). -/
def Obligations.CyclesCountAdvances : Prop :=
  ∀ (s : State) (is : List Instr), s.attached = true → (∀ i ∈ is, isStimulus i = true) →
    ∃ t, execAll is s = .next t ∧ t.cycles = s.cycles + advSum is

/-- Frame of the reads without a side effect and of the dispatcher's own writes. A read changes the response and nothing else; a
memory write the one byte at its address; a trace write no byte; none of them a device register, the prescaler or
`cycles`. -/
def Obligations.DispatcherAndReadsFrame : Prop :=
  (∀ (i : Instr) (s t : State) (a : Addr),
    i ∈ [.pinRd, .uartRdControl, .uartRdTxdata, .uartRdStatus, .timerRdData, .timerRdControl, .memRd a] →
    exec i s = .next t →
    t.uart = s.uart ∧ t.timer = s.timer ∧ t.cycles = s.cycles ∧ t.cfg = s.cfg ∧ t.attached = s.attached ∧
      t.inputs = s.inputs ∧ t.events = s.events ∧ ∀ b : Addr, t.memRead b = s.memRead b) ∧
  (∀ (s t : State) (a : Addr) (d : Byte), exec (.memWr a d) s = .next t →
    t.uart = s.uart ∧ t.timer = s.timer ∧ t.cycles = s.cycles ∧ t.cfg = s.cfg ∧ t.attached = s.attached ∧
      t.inputs = s.inputs ∧ t.events = s.events ∧ ∀ b : Addr, b ≠ a → t.memRead b = s.memRead b) ∧
  (∀ (s t : State) (d : Byte), exec (.traceWr d) s = .next t →
    t.uart = s.uart ∧ t.timer = s.timer ∧ t.cycles = s.cycles ∧ t.cfg = s.cfg ∧ t.attached = s.attached ∧
      t.inputs = s.inputs ∧ ∀ b : Addr, t.memRead b = s.memRead b)

/-- Frame of the serial operations (receive-data read, the four writes, receive, attach): the timer, `cycles` and every byte of
memory stand, and each serial register but those the rule names; of the status, `UART.RD.RXDATA` and `UART.RECEIVE`
change only bit 0 and `UART.WR.TXDATA` only bit 1. -/
def Obligations.SerialOperationsFrame : Prop :=
  (∀ (i : Instr) (s t : State) (d : Byte),
    i ∈ [.uartRdRxdata, .uartWrControl d, .uartWrTxdata d, .uartWrStatus d, .uartWrRxdata d, .uartReceive d, .uartAttach] →
    exec i s = .next t →
    t.timer = s.timer ∧ t.cycles = s.cycles ∧ t.cfg = s.cfg ∧ t.attached = s.attached ∧ t.inputs = s.inputs ∧
      ∀ b : Addr, t.memRead b = s.memRead b) ∧
  (∀ s t : State, exec .uartRdRxdata s = .next t →
    t.uart.control = s.uart.control ∧ t.uart.txData = s.uart.txData ∧ t.uart.rxData = s.uart.rxData ∧
      t.uart.status.extractLsb' 1 7 = s.uart.status.extractLsb' 1 7) ∧
  (∀ (s t : State) (d : Byte), exec (.uartWrControl d) s = .next t →
    t.uart.txData = s.uart.txData ∧ t.uart.rxData = s.uart.rxData ∧
      (d.extractLsb' 0 2 ≠ 0b11 → t.uart.status = s.uart.status)) ∧
  (∀ (s t : State) (d : Byte), exec (.uartWrTxdata d) s = .next t →
    t.uart.control = s.uart.control ∧ t.uart.rxData = s.uart.rxData ∧
      t.uart.status.getLsbD 0 = s.uart.status.getLsbD 0 ∧
      t.uart.status.extractLsb' 2 6 = s.uart.status.extractLsb' 2 6) ∧
  (∀ (s t : State) (d : Byte), exec (.uartWrStatus d) s = .next t →
    t.uart.control = s.uart.control ∧ t.uart.txData = s.uart.txData ∧ t.uart.rxData = s.uart.rxData) ∧
  (∀ (s t : State) (d : Byte), exec (.uartWrRxdata d) s = .next t →
    t.uart.control = s.uart.control ∧ t.uart.txData = s.uart.txData ∧ t.uart.status = s.uart.status) ∧
  (∀ (s t : State) (d : Byte), exec (.uartReceive d) s = .next t →
    t.uart.control = s.uart.control ∧ t.uart.txData = s.uart.txData ∧
      t.uart.status.extractLsb' 1 7 = s.uart.status.extractLsb' 1 7)

/-- Frame of the timer operations (both writes, advance, attach): the serial device and every byte of memory stand; a data
write leaves the control register and the prescaler, a control write leaves the counter, an advance leaves bits 6:0 of
the control register; only an advance changes `cycles`. -/
def Obligations.TimerOperationsFrame : Prop :=
  (∀ (i : Instr) (s t : State) (d : Byte) (n : Nat),
    i ∈ [.timerWrData d, .timerWrControl d, .timerAdvance n, .timerAttach] → exec i s = .next t →
    t.uart = s.uart ∧ t.cfg = s.cfg ∧ t.attached = s.attached ∧ t.inputs = s.inputs ∧
      ∀ b : Addr, t.memRead b = s.memRead b) ∧
  (∀ (s t : State) (d : Byte), exec (.timerWrData d) s = .next t →
    t.timer.control = s.timer.control ∧ t.timer.prescaler = s.timer.prescaler ∧ t.cycles = s.cycles) ∧
  (∀ (s t : State) (d : Byte), exec (.timerWrControl d) s = .next t →
    t.timer.data = s.timer.data ∧ t.cycles = s.cycles ∧
      (d.getLsbD 3 = false → t.timer.prescaler = s.timer.prescaler)) ∧
  (∀ s t : State, exec .timerAttach s = .next t → t.cycles = s.cycles) ∧
  (∀ (s t : State) (n : Nat), exec (.timerAdvance n) s = .next t →
    t.timer.control.extractLsb' 0 7 = s.timer.control.extractLsb' 0 7)

/-- Who writes the data registers and the hidden state: `tx_data` only the transmit write, `rx_data` only the receive and its
raw write, the counter only its write and the advance, the prescaler only a control write with bit 3 set and the advance,
RESET and the attaches apart; each over the bus as well (R22, R29, R31). -/
def Obligations.RegisterWriters : Prop :=
  ∀ (i : Instr) (s t : State), isAttach i = false → exec i s = .next t →
    (t.uart.txData ≠ s.uart.txData → ∃ d, leafOf s.cfg i = .uartWrTxdata d ∧ t.uart.txData = d) ∧
    (t.uart.rxData ≠ s.uart.rxData →
      ∃ d, (leafOf s.cfg i = .uartReceive d ∨ leafOf s.cfg i = .uartWrRxdata d) ∧ t.uart.rxData = d) ∧
    (t.timer.data ≠ s.timer.data →
      (∃ d, leafOf s.cfg i = .timerWrData d ∧ t.timer.data = d) ∨ ∃ n, i = .timerAdvance n) ∧
    (t.timer.prescaler ≠ s.timer.prescaler →
      (∃ d, leafOf s.cfg i = .timerWrControl d ∧ d.getLsbD 3 = true) ∨ ∃ n, i = .timerAdvance n) ∧
    (t.cycles ≠ s.cycles → ∃ n, i = .timerAdvance n)
end

