-- ==== Sys2Proof/Laws/State.lean ====
section
/-!
SUPPORT. What each update of the state leaves in each field: one lemma for each update and field, true by definition, so that
no later proof unfolds a record update.
-/

namespace Sys2Proof.Machine

variable (s : State)

/-! Answering a byte writes the response and nothing else (R7). -/

@[simp] theorem State.respond_uart (v : Byte) : (s.respond v).uart = s.uart := rfl
@[simp] theorem State.respond_timer (v : Byte) : (s.respond v).timer = s.timer := rfl
@[simp] theorem State.respond_mem (v : Byte) : (s.respond v).mem = s.mem := rfl
@[simp] theorem State.respond_cycles (v : Byte) : (s.respond v).cycles = s.cycles := rfl
@[simp] theorem State.respond_cfg (v : Byte) : (s.respond v).cfg = s.cfg := rfl
@[simp] theorem State.respond_attached (v : Byte) : (s.respond v).attached = s.attached := rfl
@[simp] theorem State.respond_inputs (v : Byte) : (s.respond v).inputs = s.inputs := rfl
@[simp] theorem State.respond_response (v : Byte) : (s.respond v).response = some v := rfl
@[simp] theorem State.respond_events (v : Byte) : (s.respond v).events = s.events := rfl

/-! An operation answered by nothing clears the response and nothing else (R7). -/

@[simp] theorem State.quiet_uart : (s.quiet).uart = s.uart := rfl
@[simp] theorem State.quiet_timer : (s.quiet).timer = s.timer := rfl
@[simp] theorem State.quiet_mem : (s.quiet).mem = s.mem := rfl
@[simp] theorem State.quiet_cycles : (s.quiet).cycles = s.cycles := rfl
@[simp] theorem State.quiet_cfg : (s.quiet).cfg = s.cfg := rfl
@[simp] theorem State.quiet_attached : (s.quiet).attached = s.attached := rfl
@[simp] theorem State.quiet_inputs : (s.quiet).inputs = s.inputs := rfl
@[simp] theorem State.quiet_response : (s.quiet).response = none := rfl
@[simp] theorem State.quiet_events : (s.quiet).events = s.events := rfl

/-! Emitting appends to the output log and does nothing else (R9). -/

@[simp] theorem State.emit_uart (e : Event) : (s.emit e).uart = s.uart := rfl
@[simp] theorem State.emit_timer (e : Event) : (s.emit e).timer = s.timer := rfl
@[simp] theorem State.emit_mem (e : Event) : (s.emit e).mem = s.mem := rfl
@[simp] theorem State.emit_cycles (e : Event) : (s.emit e).cycles = s.cycles := rfl
@[simp] theorem State.emit_cfg (e : Event) : (s.emit e).cfg = s.cfg := rfl
@[simp] theorem State.emit_attached (e : Event) : (s.emit e).attached = s.attached := rfl
@[simp] theorem State.emit_inputs (e : Event) : (s.emit e).inputs = s.inputs := rfl
@[simp] theorem State.emit_response (e : Event) : (s.emit e).response = s.response := rfl
@[simp] theorem State.emit_events (e : Event) : (s.emit e).events = s.events ++ [e] := rfl

/-! Reporting an interrupt condition appends to the output log and does nothing else (R187). -/

@[simp] theorem State.reportIrq_uart (e : Event) : (s.reportIrq e).uart = s.uart := rfl
@[simp] theorem State.reportIrq_timer (e : Event) : (s.reportIrq e).timer = s.timer := rfl
@[simp] theorem State.reportIrq_mem (e : Event) : (s.reportIrq e).mem = s.mem := rfl
@[simp] theorem State.reportIrq_cycles (e : Event) : (s.reportIrq e).cycles = s.cycles := rfl
@[simp] theorem State.reportIrq_cfg (e : Event) : (s.reportIrq e).cfg = s.cfg := rfl
@[simp] theorem State.reportIrq_attached (e : Event) : (s.reportIrq e).attached = s.attached := rfl
@[simp] theorem State.reportIrq_inputs (e : Event) : (s.reportIrq e).inputs = s.inputs := rfl
@[simp] theorem State.reportIrq_response (e : Event) : (s.reportIrq e).response = s.response := rfl
@[simp] theorem State.reportIrq_events (e : Event) : (s.reportIrq e).events = s.events ++ [e] := rfl

/-! Writing the serial registers. -/

@[simp] theorem State.setUart_uart (u : Uart) : (s.setUart u).uart = u := rfl
@[simp] theorem State.setUart_timer (u : Uart) : (s.setUart u).timer = s.timer := rfl
@[simp] theorem State.setUart_mem (u : Uart) : (s.setUart u).mem = s.mem := rfl
@[simp] theorem State.setUart_cycles (u : Uart) : (s.setUart u).cycles = s.cycles := rfl
@[simp] theorem State.setUart_cfg (u : Uart) : (s.setUart u).cfg = s.cfg := rfl
@[simp] theorem State.setUart_attached (u : Uart) : (s.setUart u).attached = s.attached := rfl
@[simp] theorem State.setUart_inputs (u : Uart) : (s.setUart u).inputs = s.inputs := rfl
@[simp] theorem State.setUart_response (u : Uart) : (s.setUart u).response = s.response := rfl
@[simp] theorem State.setUart_events (u : Uart) : (s.setUart u).events = s.events := rfl

/-! Writing the timer registers. -/

@[simp] theorem State.setTimer_uart (t : Timer) : (s.setTimer t).uart = s.uart := rfl
@[simp] theorem State.setTimer_timer (t : Timer) : (s.setTimer t).timer = t := rfl
@[simp] theorem State.setTimer_mem (t : Timer) : (s.setTimer t).mem = s.mem := rfl
@[simp] theorem State.setTimer_cycles (t : Timer) : (s.setTimer t).cycles = s.cycles := rfl
@[simp] theorem State.setTimer_cfg (t : Timer) : (s.setTimer t).cfg = s.cfg := rfl
@[simp] theorem State.setTimer_attached (t : Timer) : (s.setTimer t).attached = s.attached := rfl
@[simp] theorem State.setTimer_inputs (t : Timer) : (s.setTimer t).inputs = s.inputs := rfl
@[simp] theorem State.setTimer_response (t : Timer) : (s.setTimer t).response = s.response := rfl
@[simp] theorem State.setTimer_events (t : Timer) : (s.setTimer t).events = s.events := rfl

/-! Writing the cycle counter. -/

@[simp] theorem State.setCycles_uart (n : Nat) : (s.setCycles n).uart = s.uart := rfl
@[simp] theorem State.setCycles_timer (n : Nat) : (s.setCycles n).timer = s.timer := rfl
@[simp] theorem State.setCycles_mem (n : Nat) : (s.setCycles n).mem = s.mem := rfl
@[simp] theorem State.setCycles_cycles (n : Nat) : (s.setCycles n).cycles = n := rfl
@[simp] theorem State.setCycles_cfg (n : Nat) : (s.setCycles n).cfg = s.cfg := rfl
@[simp] theorem State.setCycles_attached (n : Nat) : (s.setCycles n).attached = s.attached := rfl
@[simp] theorem State.setCycles_inputs (n : Nat) : (s.setCycles n).inputs = s.inputs := rfl
@[simp] theorem State.setCycles_response (n : Nat) : (s.setCycles n).response = s.response := rfl
@[simp] theorem State.setCycles_events (n : Nat) : (s.setCycles n).events = s.events := rfl

/-! Writing one byte of plain memory. -/

@[simp] theorem State.memWrite_uart (a : Addr) (v : Byte) : (s.memWrite a v).uart = s.uart := rfl
@[simp] theorem State.memWrite_timer (a : Addr) (v : Byte) : (s.memWrite a v).timer = s.timer := rfl
@[simp] theorem State.memWrite_mem (a : Addr) (v : Byte) : (s.memWrite a v).mem = cellsPut s.cfg.imageByte a.toNat v s.mem := rfl
@[simp] theorem State.memWrite_cycles (a : Addr) (v : Byte) : (s.memWrite a v).cycles = s.cycles := rfl
@[simp] theorem State.memWrite_cfg (a : Addr) (v : Byte) : (s.memWrite a v).cfg = s.cfg := rfl
@[simp] theorem State.memWrite_attached (a : Addr) (v : Byte) : (s.memWrite a v).attached = s.attached := rfl
@[simp] theorem State.memWrite_inputs (a : Addr) (v : Byte) : (s.memWrite a v).inputs = s.inputs := rfl
@[simp] theorem State.memWrite_response (a : Addr) (v : Byte) : (s.memWrite a v).response = s.response := rfl
@[simp] theorem State.memWrite_events (a : Addr) (v : Byte) : (s.memWrite a v).events = s.events := rfl

/-! Presenting a stimulus. -/

@[simp] theorem State.present_uart (st : Stimulus) : (s.present st).uart = s.uart := rfl
@[simp] theorem State.present_timer (st : Stimulus) : (s.present st).timer = s.timer := rfl
@[simp] theorem State.present_mem (st : Stimulus) : (s.present st).mem = s.mem := rfl
@[simp] theorem State.present_cycles (st : Stimulus) : (s.present st).cycles = s.cycles := rfl
@[simp] theorem State.present_cfg (st : Stimulus) : (s.present st).cfg = s.cfg := rfl
@[simp] theorem State.present_attached (st : Stimulus) : (s.present st).attached = s.attached := rfl
@[simp] theorem State.present_inputs (st : Stimulus) : (s.present st).inputs = s.inputs ++ [st] := rfl
@[simp] theorem State.present_response (st : Stimulus) : (s.present st).response = s.response := rfl
@[simp] theorem State.present_events (st : Stimulus) : (s.present st).events = s.events := rfl

end Sys2Proof.Machine
end

