-- ==== Sys2Proof/Laws/Cells.lean ====
section
/-!
SUPPORT. Sparse byte arrays: reading after a write, and that a write keeps the canonical form.
-/

namespace Sys2Proof

theorem cellsLookup_erase (a b : Nat) (m : List Host.Cell) :
    cellsLookup (cellsErase a m) b = if b = a then none else cellsLookup m b := by
  induction m with
  | nil => simp [cellsErase, cellsLookup]
  | cons x rest ih =>
    obtain ⟨k, w⟩ := x
    by_cases h : a = k
    · subst h
      by_cases hb : b = a
      · subst hb; simpa [cellsErase] using ih
      · simp [cellsErase, cellsLookup, ih, hb]
    · by_cases hb : b = a
      · subst hb; simp [cellsErase, cellsLookup, h, ih]
      · simp [cellsErase, cellsLookup, h, ih, hb]

theorem cellsLookup_insert (a : Nat) (v : Byte) (m : List Host.Cell) (ha : cellsLookup m a = none) (b : Nat) :
    cellsLookup (cellsInsert a v m) b = if b = a then some v else cellsLookup m b := by
  induction m with
  | nil => simp [cellsInsert, cellsLookup]
  | cons x rest ih =>
    obtain ⟨k, w⟩ := x
    by_cases hk : a = k
    · simp [cellsLookup, hk] at ha
    · have ha' : cellsLookup rest a = none := by simpa [cellsLookup, hk] using ha
      by_cases hlt : a < k
      · simp [cellsInsert, hlt, cellsLookup]
      · by_cases hb : b = k
        · subst hb; simp [cellsInsert, hlt, cellsLookup, Ne.symm hk]
        · simp [cellsInsert, hlt, cellsLookup, hb, ih ha']

/-- What an array holds after a write: the written byte at its address, and everywhere else what it held. -/
theorem cellsGet_put (dflt : Nat → Byte) (a : Nat) (v : Byte) (m : List Host.Cell) (b : Nat) :
    cellsGet dflt (cellsPut dflt a v m) b = if b = a then v else cellsGet dflt m b := by
  by_cases hv : v = dflt a
  · by_cases hb : b = a
    · subst hb; simp [cellsGet, cellsPut, hv, cellsLookup_erase]
    · simp [cellsGet, cellsPut, hv, cellsLookup_erase, hb]
  · have he : cellsLookup (cellsErase a m) a = none := by simp [cellsLookup_erase]
    by_cases hb : b = a
    · subst hb; simp [cellsGet, cellsPut, hv, cellsLookup_insert _ _ _ he]
    · simp [cellsGet, cellsPut, hv, cellsLookup_insert _ _ _ he, hb, cellsLookup_erase]

theorem cellsFrom_mono (dflt : Nat → Byte) (m : List Host.Cell) {lo lo' : Nat} (h : lo' ≤ lo)
    (hm : cellsFrom dflt lo m = true) : cellsFrom dflt lo' m = true := by
  cases m with
  | nil => rfl
  | cons x rest =>
    obtain ⟨k, w⟩ := x
    simp only [cellsFrom, Bool.and_eq_true, decide_eq_true_eq] at hm ⊢
    exact ⟨⟨⟨by omega, hm.1.1.2⟩, hm.1.2⟩, hm.2⟩

theorem cellsFrom_erase (dflt : Nat → Byte) (a : Nat) (m : List Host.Cell) (lo : Nat)
    (hm : cellsFrom dflt lo m = true) : cellsFrom dflt lo (cellsErase a m) = true := by
  induction m generalizing lo with
  | nil => rfl
  | cons x rest ih =>
    obtain ⟨k, w⟩ := x
    simp only [cellsFrom, Bool.and_eq_true, decide_eq_true_eq] at hm
    by_cases h : a = k
    · simp only [cellsErase, h, if_true]
      exact cellsFrom_mono dflt _ (by omega) (h ▸ ih _ hm.2)
    · simp only [cellsErase, h, if_false, cellsFrom, Bool.and_eq_true, decide_eq_true_eq]
      exact ⟨hm.1, ih _ hm.2⟩

theorem cellsFrom_insert (dflt : Nat → Byte) (a : Nat) (v : Byte) (hv : v ≠ dflt a) (ha : a < memSize)
    (m : List Host.Cell) (hno : cellsLookup m a = none) (lo : Nat) (hlo : lo ≤ a)
    (hm : cellsFrom dflt lo m = true) : cellsFrom dflt lo (cellsInsert a v m) = true := by
  induction m generalizing lo with
  | nil => simp [cellsInsert, cellsFrom, hlo, ha, hv]
  | cons x rest ih =>
    obtain ⟨k, w⟩ := x
    by_cases hk : a = k
    · simp [cellsLookup, hk] at hno
    · have hno' : cellsLookup rest a = none := by simpa [cellsLookup, hk] using hno
      simp only [cellsFrom, Bool.and_eq_true, decide_eq_true_eq] at hm
      by_cases hlt : a < k
      · simp only [cellsInsert, hlt, if_true, cellsFrom, Bool.and_eq_true, decide_eq_true_eq]
        exact ⟨⟨⟨hlo, ha⟩, hv⟩, ⟨⟨by omega, hm.1.1.2⟩, hm.1.2⟩, hm.2⟩
      · simp only [cellsInsert, hlt, if_false, cellsFrom, Bool.and_eq_true, decide_eq_true_eq]
        exact ⟨hm.1, ih hno' _ (by omega) hm.2⟩

/-- A write inside the address space keeps the canonical form. -/
theorem cellsWf_put (dflt : Nat → Byte) (a : Nat) (v : Byte) (ha : a < memSize) (m : List Host.Cell)
    (hm : cellsWf dflt m = true) : cellsWf dflt (cellsPut dflt a v m) = true := by
  by_cases hv : v = dflt a
  · simpa [cellsWf, cellsPut, hv] using cellsFrom_erase dflt a m 0 hm
  · simpa [cellsWf, cellsPut, hv] using
      cellsFrom_insert dflt a v hv ha _ (by simp [cellsLookup_erase]) 0 (Nat.zero_le _) (cellsFrom_erase dflt a m 0 hm)

namespace Machine

/-- `MemWrite` then `MemRead` (R9): the written byte at its address, the byte held before at every other. -/
theorem memRead_memWrite (s : State) (a b : Addr) (v : Byte) :
    (s.memWrite a v).memRead b = if b = a then v else s.memRead b := by
  simp only [State.memRead, State.memWrite_cfg, State.memWrite_mem, cellsGet_put]
  simp [BitVec.toNat_inj]

/-- Every memory operation keeps the canonical form. -/
theorem memWf_memWrite (s : State) (a : Addr) (v : Byte) (h : memWf s.cfg s.mem = true) :
    memWf (s.memWrite a v).cfg (s.memWrite a v).mem = true :=
  cellsWf_put _ _ _ (by have := a.isLt; simp [memSize]; omega) _ h

/-- The memory right after RESET is in canonical form. -/
theorem memWf_afterReset (c : Config) : memWf c (State.afterReset c).mem = true := rfl

/-- Reading memory depends on the configuration and the listed bytes alone. -/
theorem memRead_congr {s t : State} (hc : t.cfg = s.cfg) (hm : t.mem = s.mem) (a : Addr) : t.memRead a = s.memRead a := by
  simp [State.memRead, hc, hm]

end Machine

end Sys2Proof
end

