-- ==== Sys2Proof/Laws/Ops.lean ====
section
/-!
SUPPORT. What each shared operation can answer, said once: the guards of the reset contract, the address decoder and the register
multiplexers.
-/

namespace Sys2Proof

/-! ### The checks of a configuration (R6) -/

theorem Config.uart_fits (c : Config) : c.uartBase + uartSpan ≤ memSize := by
  have := c.ok; simp [Params.wellFormed, Params.rangesFit] at this; omega

theorem Config.timer_fits (c : Config) : c.timerBase + timerSpan ≤ memSize := by
  have := c.ok; simp [Params.wellFormed, Params.rangesFit] at this; omega

theorem Config.ranges_disjoint (c : Config) :
    c.uartBase + uartSpan ≤ c.timerBase ∨ c.timerBase + timerSpan ≤ c.uartBase := by
  have := c.ok; simp [Params.wellFormed, Params.rangesDisjoint] at this; omega

theorem Config.prescale_pos (c : Config) : 1 ≤ c.prescale := by
  have := c.ok; simp [Params.wellFormed, Params.prescaleInRange] at this; omega

theorem Config.prescale_le (c : Config) : c.prescale ≤ 127 := by
  have := c.ok; simp [Params.wellFormed, Params.prescaleInRange] at this; omega

theorem Config.psel_le (c : Config) : c.psel ≤ 15 := by
  have := c.ok; simp [Params.wellFormed, Params.pselInRange] at this; omega

/-! ### The address decoder (R81, R82) -/

theorem Config.select_eq_pin (c : Config) (a : Addr) : c.select a = .pin ↔ a = pinAddr := by
  unfold Config.select
  by_cases h : a = pinAddr
  · simp [h]
  · simp only [h, if_false, iff_false]
    split
    · simp
    · split <;> simp

theorem Config.select_eq_mem (c : Config) (a : Addr) : c.select a = .mem ↔ c.isPlain a = true := by
  unfold Config.select Config.isPlain Config.inUart Config.inTimer
  split <;> rename_i h <;> simp [h]
  split
  · simp; omega
  · split
    · simp; omega
    · simp; omega

/-- A serial select gives the exact distance from the base (R82). -/
theorem Config.select_uart (c : Config) (a : Addr) (off : BitVec 2) (h : c.select a = .uart off) :
    a.toNat = c.uartBase + off.toNat ∧ a ≠ pinAddr := by
  unfold Config.select at h
  split at h
  · exact absurd h (by simp)
  · rename_i h0
    split at h
    · rename_i h1
      injection h with h
      subst h
      simp only [uartSpan] at h1
      refine ⟨?_, h0⟩
      simp only [BitVec.toNat_ofNat]
      omega
    · split at h <;> exact absurd h (by simp)

/-- A timer select gives the exact distance from the base (R82). -/
theorem Config.select_timer (c : Config) (a : Addr) (off : BitVec 1) (h : c.select a = .timer off) :
    a.toNat = c.timerBase + off.toNat ∧ a ≠ pinAddr := by
  unfold Config.select at h
  split at h
  · exact absurd h (by simp)
  · rename_i h0
    split at h
    · exact absurd h (by simp)
    · split at h
      · rename_i h1
        injection h with h
        subst h
        simp only [timerSpan] at h1
        refine ⟨?_, h0⟩
        simp only [BitVec.toNat_ofNat]
        omega
      · exact absurd h (by simp)

namespace Machine

/-! ### The guards -/

theorem whenAttached_next {s t u : State} : whenAttached s t = .next u ↔ s.attached = true ∧ t = u := by
  unfold whenAttached; split <;> simp_all

theorem whenUnattached_next {s t u : State} : whenUnattached s t = .next u ↔ s.attached = false ∧ t = u := by
  unfold whenUnattached; split <;> simp_all

theorem whenMemSelected_next {a : Addr} {s t u : State} :
    whenMemSelected a s t = .next u ↔ s.cfg.select a = .mem ∧ s.attached = true ∧ t = u := by
  unfold whenMemSelected; split <;> simp_all [whenAttached_next]

@[simp] theorem whenAttached_true {s t : State} (h : s.attached = true) : whenAttached s t = .next t := by
  simp [whenAttached, h]

@[simp] theorem whenAttached_false {s t : State} (h : s.attached = false) : whenAttached s t = .refused .beforeReset := by
  simp [whenAttached, h]

@[simp] theorem whenUnattached_true {s t : State} (h : s.attached = true) : whenUnattached s t = .refused .secondReset := by
  simp [whenUnattached, h]

@[simp] theorem whenUnattached_false {s t : State} (h : s.attached = false) : whenUnattached s t = .next t := by
  simp [whenUnattached, h]

/-! ### The register multiplexers: an offset of 2 bits is one of four, of 1 bit one of two -/

theorem offset_uart_cases (off : BitVec 2) : off = 0 ∨ off = 1 ∨ off = 2 ∨ off = 3 := by
  revert off; decide

theorem offset_timer_cases (off : BitVec 1) : off = 0 ∨ off = 1 := by
  revert off; decide

@[simp] theorem uartRead_0 (s : State) : uartRead 0#2 s = uartReadControl s := rfl
@[simp] theorem uartRead_1 (s : State) : uartRead 1#2 s = uartReadTxdata s := rfl
@[simp] theorem uartRead_2 (s : State) : uartRead 2#2 s = uartReadStatus s := rfl
@[simp] theorem uartRead_3 (s : State) : uartRead 3#2 s = uartReadRxdata s := rfl
@[simp] theorem uartWrite_0 (d : Byte) (s : State) : uartWrite 0#2 d s = uartWriteControl d s := rfl
@[simp] theorem uartWrite_1 (d : Byte) (s : State) : uartWrite 1#2 d s = uartWriteTxdata d s := rfl
@[simp] theorem uartWrite_2 (d : Byte) (s : State) : uartWrite 2#2 d s = uartWriteStatus d s := rfl
@[simp] theorem uartWrite_3 (d : Byte) (s : State) : uartWrite 3#2 d s = uartWriteRxdata d s := rfl
@[simp] theorem timerRead_0 (s : State) : timerRead 0#1 s = timerReadData s := rfl
@[simp] theorem timerRead_1 (s : State) : timerRead 1#1 s = timerReadControl s := rfl
@[simp] theorem timerWrite_0 (d : Byte) (s : State) : timerWrite 0#1 d s = timerWriteData d s := rfl
@[simp] theorem timerWrite_1 (d : Byte) (s : State) : timerWrite 1#1 d s = timerWriteControl d s := rfl

/-- Everything a bus read can be: one of the eight leaf reads, with the select that chose it (R100). -/
theorem busRead_cases (a : Addr) (s : State) :
    (s.cfg.select a = .pin ∧ busRead a s = pinRead s) ∨
    (s.cfg.select a = .uart 0 ∧ busRead a s = uartReadControl s) ∨
    (s.cfg.select a = .uart 1 ∧ busRead a s = uartReadTxdata s) ∨
    (s.cfg.select a = .uart 2 ∧ busRead a s = uartReadStatus s) ∨
    (s.cfg.select a = .uart 3 ∧ busRead a s = uartReadRxdata s) ∨
    (s.cfg.select a = .timer 0 ∧ busRead a s = timerReadData s) ∨
    (s.cfg.select a = .timer 1 ∧ busRead a s = timerReadControl s) ∨
    (s.cfg.select a = .mem ∧ busRead a s = plainRead a s) := by
  rcases h : s.cfg.select a with _ | off | off | _
  · simp [busRead, h]
  · rcases offset_uart_cases off with rfl | rfl | rfl | rfl <;> simp [busRead, h]
  · rcases offset_timer_cases off with rfl | rfl <;> simp [busRead, h]
  · simp [busRead, h]

/-- Everything a bus write can be: one of the eight leaf writes, with the select that chose it (R101). -/
theorem busWrite_cases (a : Addr) (d : Byte) (s : State) :
    (s.cfg.select a = .pin ∧ busWrite a d s = traceWrite d s) ∨
    (s.cfg.select a = .uart 0 ∧ busWrite a d s = uartWriteControl d s) ∨
    (s.cfg.select a = .uart 1 ∧ busWrite a d s = uartWriteTxdata d s) ∨
    (s.cfg.select a = .uart 2 ∧ busWrite a d s = uartWriteStatus d s) ∨
    (s.cfg.select a = .uart 3 ∧ busWrite a d s = uartWriteRxdata d s) ∨
    (s.cfg.select a = .timer 0 ∧ busWrite a d s = timerWriteData d s) ∨
    (s.cfg.select a = .timer 1 ∧ busWrite a d s = timerWriteControl d s) ∨
    (s.cfg.select a = .mem ∧ busWrite a d s = plainWrite a d s) := by
  rcases h : s.cfg.select a with _ | off | off | _
  · simp [busWrite, h]
  · rcases offset_uart_cases off with rfl | rfl | rfl | rfl <;> simp [busWrite, h]
  · rcases offset_timer_cases off with rfl | rfl <;> simp [busWrite, h]
  · simp [busWrite, h]

end Machine

end Sys2Proof
end

