-- ==== Sys2Proof/Laws/Decode.lean ====
section
/-!
SUPPORT. The address decoder at the addresses the encoder uses, and what each select hands over to.
-/

namespace Sys2Proof

/-- The register at an offset of the serial device is selected at base plus offset, the shadowed address apart (R82, R108). -/
theorem Config.select_uart_at (c : Config) (k : Nat) (hk : k < 4) (h0 : c.uartBase + k ≠ 0) :
    c.select (BitVec.ofNat 16 (c.uartBase + k)) = .uart (BitVec.ofNat 2 k) := by
  have hf := c.uart_fits
  simp only [uartSpan, memSize] at hf
  have ht : (BitVec.ofNat 16 (c.uartBase + k)).toNat = c.uartBase + k := by
    rw [BitVec.toNat_ofNat]; exact Nat.mod_eq_of_lt (by omega)
  unfold Config.select
  rw [if_neg, if_pos]
  · rw [ht, Nat.add_sub_cancel_left]
  · rw [ht]; simp only [uartSpan]; omega
  · intro h; exact h0 (by rw [← ht, h]; rfl)

/-- The register at an offset of the timer is selected at base plus offset, the shadowed address apart (R82, R108). -/
theorem Config.select_timer_at (c : Config) (k : Nat) (hk : k < 2) (h0 : c.timerBase + k ≠ 0) :
    c.select (BitVec.ofNat 16 (c.timerBase + k)) = .timer (BitVec.ofNat 1 k) := by
  have hf := c.timer_fits
  have hd := c.ranges_disjoint
  simp only [timerSpan, uartSpan, memSize] at hf hd
  have ht : (BitVec.ofNat 16 (c.timerBase + k)).toNat = c.timerBase + k := by
    rw [BitVec.toNat_ofNat]; exact Nat.mod_eq_of_lt (by omega)
  unfold Config.select
  rw [if_neg, if_neg, if_pos]
  · rw [ht, Nat.add_sub_cancel_left]
  · rw [ht]; simp only [timerSpan]; omega
  · rw [ht]; simp only [uartSpan]; omega
  · intro h; exact h0 (by rw [← ht, h]; rfl)

namespace Machine

/-- A read transaction decodes to the read its select names (R85). -/
theorem decodeBus_read (c : Config) (a : Addr) (d : Byte) :
    c.decodeBus ⟨0, a, d⟩ = .ok (selectedRead a (c.select a)) := by
  unfold Config.decodeBus Config.stage1
  dsimp only
  rcases c.select a with _ | off | off | _
  · exact rfl
  · rcases offset_uart_cases off with rfl | rfl | rfl | rfl <;> exact rfl
  · rcases offset_timer_cases off with rfl | rfl <;> exact rfl
  · exact rfl

/-- A write transaction decodes to the write its select names (R85). -/
theorem decodeBus_write (c : Config) (a : Addr) (d : Byte) :
    c.decodeBus ⟨1, a, d⟩ = .ok (selectedWrite a d (c.select a)) := by
  unfold Config.decodeBus Config.stage1
  dsimp only
  rcases c.select a with _ | off | off | _
  · exact rfl
  · rcases offset_uart_cases off with rfl | rfl | rfl | rfl <;> exact rfl
  · rcases offset_timer_cases off with rfl | rfl <;> exact rfl
  · exact rfl

theorem leafOf_busRd (c : Config) (a : Addr) : leafOf c (.busRd a) = selectedRead a (c.select a) := by
  simp only [leafOf, decodeBus_read]; rfl

theorem leafOf_busWr (c : Config) (a : Addr) (d : Byte) : leafOf c (.busWr a d) = selectedWrite a d (c.select a) := by
  simp only [leafOf, decodeBus_write]; rfl

/-- The read a select hands over to is one of eight. -/
theorem selectedRead_mem (a : Addr) (sel : Select) :
    selectedRead a sel ∈ [.pinRd, .uartRdControl, .uartRdTxdata, .uartRdStatus, .uartRdRxdata, .timerRdData,
      .timerRdControl, .memRd a] := by
  rcases sel with _ | off | off | _
  · simp [selectedRead]
  · rcases offset_uart_cases off with rfl | rfl | rfl | rfl <;> simp [selectedRead]
  · rcases offset_timer_cases off with rfl | rfl <;> simp [selectedRead]
  · simp [selectedRead]

/-- The write a select hands over to is one of eight. -/
theorem selectedWrite_mem (a : Addr) (d : Byte) (sel : Select) :
    selectedWrite a d sel ∈ [.traceWr d, .uartWrControl d, .uartWrTxdata d, .uartWrStatus d, .uartWrRxdata d,
      .timerWrData d, .timerWrControl d, .memWr a d] := by
  rcases sel with _ | off | off | _
  · simp [selectedWrite]
  · rcases offset_uart_cases off with rfl | rfl | rfl | rfl <;> simp [selectedWrite]
  · rcases offset_timer_cases off with rfl | rfl <;> simp [selectedWrite]
  · simp [selectedWrite]

end Machine

end Sys2Proof
end

