-- ==== Sys2Proof/Machine/Environment.lean ====
section
/-!
DEFINITION. The environment's order (spec/70_reset_and_hazards.md rules R201, R204, R207 and R208): which sequences of stimuli it
presents. It constrains the environment, not the block, which accepts every stimulus between two others (R207, R209): no
step depends on it (DEDUCED, safe, log 16).
-/

namespace Sys2Proof.Machine

/-! ### The grammar: one instruction of the CPU core after another -/

/-- Where the input byte polled after an instruction stands against the `ADV` of that instruction: R208 allows none, and
orders one on neither side. -/
inductive Polled where
  | nothing
  | beforeAdv (byte : Byte)
  | afterAdv (byte : Byte)
deriving DecidableEq, Repr

/-- What the environment presents for one instruction of the CPU core: its bus accesses, any number of them (R206), its cycle
count (R207), and the byte polled after it (R208). -/
structure CpuInstruction where
  accesses : List Transaction
  cycles   : Nat
  polled   : Polled
deriving DecidableEq, Repr

/-- The dispatch of one bus access (R80). -/
def accessInstr (t : Transaction) : Instr := if t.rw = 0 then .busRd t.addr else .busWr t.addr t.data

/-- The `ADV` of an instruction, with the byte polled on one side of it or on neither (R207, R208). -/
def closingStimuli (n : Nat) : Polled → List Instr
  | .nothing => [.timerAdvance n]
  | .beforeAdv b => [.uartReceive b, .timerAdvance n]
  | .afterAdv b => [.timerAdvance n, .uartReceive b]

/-- The stimuli of one instruction: all its accesses first, then exactly one `ADV` (R207). -/
def CpuInstruction.stimuli (c : CpuInstruction) : List Instr :=
  c.accesses.map accessInstr ++ closingStimuli c.cycles c.polled

/-- The stimuli of a run of instructions. -/
def runStimuli : List CpuInstruction → List Instr
  | [] => []
  | c :: rest => c.stimuli ++ runStimuli rest

/-! ### The check, stimulus by stimulus -/

/-- How far the environment has come. -/
inductive OrderPhase where
  /-- `RESET` not presented yet (R201, R204). -/
  | beforeReset
  /-- At an instruction's accesses, of which there may be none; its `RX` and its `ADV` not presented. -/
  | running
  /-- The `ADV` of an instruction has just been presented; its `RX` has not. -/
  | advanced
  /-- The `RX` of an instruction has been presented before its `ADV`, which must be next. -/
  | owed
deriving DecidableEq, Repr

/-- One stimulus against the order; `none` is a violation. -/
def orderNext : OrderPhase → Instr → Option OrderPhase
  | .beforeReset, .reset => some .running
  | .running, .busRd _ => some .running
  | .running, .busWr _ _ => some .running
  | .running, .uartReceive _ => some .owed
  | .running, .timerAdvance _ => some .advanced
  | .advanced, .busRd _ => some .running
  | .advanced, .busWr _ _ => some .running
  | .advanced, .uartReceive _ => some .running
  | .advanced, .timerAdvance _ => some .advanced
  | .owed, .timerAdvance _ => some .running
  | _, _ => none

/-- A sequence of operations presented in the environment's order so far, from a phase. It may stop within an instruction. -/
def instructionOrder : OrderPhase → List Instr → Bool
  | _, [] => true
  | p, i :: rest =>
    match orderNext p i with
    | some q => instructionOrder q rest
    | none => false

end Sys2Proof.Machine
end

