-- ==== Sys2Proof/Laws/Environment.lean ====
section
/-!
SUPPORT. The stimulus by stimulus check of the environment's order is the grammar of R207 and R208: it accepts every run of
instructions, and everything it accepts goes on to be one.
-/

namespace Sys2Proof.Machine

/-- A bus access is one of the two dispatches. -/
theorem accessInstr_cases (t : Transaction) :
    accessInstr t = .busRd t.addr ∨ accessInstr t = .busWr t.addr t.data := by
  unfold accessInstr; split <;> simp

/-- What may follow where an instruction begins may follow an `ADV`, and what may follow an early `RX` may follow where an
instruction begins. -/
theorem instructionOrder_weaken (l : List Instr) :
    (instructionOrder .running l = true → instructionOrder .advanced l = true) ∧
    (instructionOrder .owed l = true → instructionOrder .running l = true) := by
  induction l with
  | nil => exact ⟨fun _ => rfl, fun _ => rfl⟩
  | cons i rest ih =>
    cases i <;> simp_all [instructionOrder, orderNext]

/-- The accesses of an instruction are accepted where an instruction begins. -/
theorem instructionOrder_accesses (ts : List Transaction) (l : List Instr) :
    instructionOrder .running (ts.map accessInstr ++ l) = instructionOrder .running l := by
  induction ts with
  | nil => rfl
  | cons t ts ih =>
    rcases accessInstr_cases t with h | h <;> simp only [List.map_cons, List.cons_append, h] <;> exact ih

/-- Every run of instructions is accepted. -/
theorem instructionOrder_runStimuli (cs : List CpuInstruction) : instructionOrder .running (runStimuli cs) = true := by
  induction cs with
  | nil => rfl
  | cons c cs ih =>
    obtain ⟨ts, n, p⟩ := c
    simp only [runStimuli, CpuInstruction.stimuli, List.append_assoc, instructionOrder_accesses]
    cases p
    · exact (instructionOrder_weaken _).1 ih
    · exact ih
    · exact ih

/-- The same after `RESET`. -/
theorem instructionOrder_reset (cs : List CpuInstruction) :
    instructionOrder .beforeReset (.reset :: runStimuli cs) = true :=
  instructionOrder_runStimuli cs

/-- One more access at the front of a run is a run. -/
theorem runStimuli_access (t : Transaction) (l : List Instr) (h : ∃ ext cs, l ++ ext = runStimuli cs) :
    ∃ ext cs, accessInstr t :: l ++ ext = runStimuli cs := by
  obtain ⟨ext, cs, h⟩ := h
  cases cs with
  | nil =>
    obtain ⟨rfl, rfl⟩ := List.append_eq_nil_iff.1 h
    exact ⟨[.timerAdvance 0], [⟨[t], 0, .nothing⟩], rfl⟩
  | cons c cs =>
    exact ⟨ext, ⟨t :: c.accesses, c.cycles, c.polled⟩ :: cs, by
      simp only [runStimuli, CpuInstruction.stimuli, List.map_cons, List.cons_append] at h ⊢; rw [h]⟩

/-- A dispatch is the bus access of some transaction. -/
theorem exists_access_read (a : Addr) : ∃ t, accessInstr t = .busRd a := ⟨⟨0, a, 0⟩, rfl⟩

theorem exists_access_write (a : Addr) (d : Byte) : ∃ t, accessInstr t = .busWr a d := ⟨⟨1, a, d⟩, rfl⟩

/-- Everything accepted goes on to be a run of instructions: where an instruction begins, after an `ADV` whose `RX` may still
come, and after an `RX` whose `ADV` must still come. -/
theorem instructionOrder_extends (l : List Instr) :
    (instructionOrder .running l = true → ∃ ext cs, l ++ ext = runStimuli cs) ∧
    (instructionOrder .advanced l = true →
      ∀ n, ∃ ext cs p, .timerAdvance n :: l ++ ext = closingStimuli n p ++ runStimuli cs) ∧
    (instructionOrder .owed l = true → ∃ ext cs n, l ++ ext = .timerAdvance n :: runStimuli cs) := by
  induction l with
  | nil => exact ⟨fun _ => ⟨[], [], rfl⟩, fun _ _ => ⟨[], [], .nothing, rfl⟩, fun _ => ⟨[.timerAdvance 0], [], 0, rfl⟩⟩
  | cons i rest ih =>
    obtain ⟨ih1, ih2, ih3⟩ := ih
    have access : ∀ t, instructionOrder .running rest = true → ∃ ext cs, accessInstr t :: rest ++ ext = runStimuli cs :=
      fun t h => runStimuli_access t rest (ih1 h)
    have after : ∀ t, instructionOrder .running rest = true → ∀ n, ∃ ext cs p,
        .timerAdvance n :: (accessInstr t :: rest) ++ ext = closingStimuli n p ++ runStimuli cs := fun t h n => by
      obtain ⟨ext, cs, e⟩ := access t h
      exact ⟨ext, cs, .nothing, congrArg (Instr.timerAdvance n :: ·) e⟩
    cases i
    case busRd a =>
      obtain ⟨t, ht⟩ := exists_access_read a
      exact ⟨fun h => ht ▸ access t h, fun h => ht ▸ after t h, fun h => absurd h (by simp [instructionOrder, orderNext])⟩
    case busWr a d =>
      obtain ⟨t, ht⟩ := exists_access_write a d
      exact ⟨fun h => ht ▸ access t h, fun h => ht ▸ after t h, fun h => absurd h (by simp [instructionOrder, orderNext])⟩
    case uartReceive b =>
      refine ⟨fun h => ?_, fun h n => ?_, fun h => absurd h (by simp [instructionOrder, orderNext])⟩
      · obtain ⟨ext, cs, n, e⟩ := ih3 h
        exact ⟨ext, ⟨[], n, .beforeAdv b⟩ :: cs, congrArg (Instr.uartReceive b :: ·) e⟩
      · obtain ⟨ext, cs, e⟩ := ih1 h
        exact ⟨ext, cs, .afterAdv b, congrArg (Instr.timerAdvance n :: .uartReceive b :: ·) e⟩
    case timerAdvance m =>
      refine ⟨fun h => ?_, fun h n => ?_, fun h => ?_⟩
      · obtain ⟨ext, cs, p, e⟩ := ih2 h m
        exact ⟨ext, ⟨[], m, p⟩ :: cs, e⟩
      · obtain ⟨ext, cs, p, e⟩ := ih2 h m
        exact ⟨ext, ⟨[], m, p⟩ :: cs, .nothing, congrArg (Instr.timerAdvance n :: ·) e⟩
      · obtain ⟨ext, cs, e⟩ := ih1 h
        exact ⟨ext, cs, m, congrArg (Instr.timerAdvance m :: ·) e⟩
    all_goals simp [instructionOrder, orderNext]

end Sys2Proof.Machine
end

