-- ==== Sys2Proof/Laws/Flags.lean ====
section
/-!
SUPPORT. What each field computation leaves in each field: the bit it sets or clears, and the bits it does not touch.
-/

namespace Sys2Proof.Machine

/-! ### `uart.status` -/

@[simp] theorem uartRda_setRda (x : Byte) : uartRda (setRda x) = true := by simp [uartRda, setRda]
@[simp] theorem uartRda_clearRda (x : Byte) : uartRda (clearRda x) = false := by simp [uartRda, clearRda]
@[simp] theorem uartTxe_setTxe (x : Byte) : uartTxe (setTxe x) = true := by simp [uartTxe, setTxe]
@[simp] theorem uartTxe_clearTxe (x : Byte) : uartTxe (clearTxe x) = false := by simp [uartTxe, clearTxe]
@[simp] theorem uartRda_setTxe (x : Byte) : uartRda (setTxe x) = uartRda x := by simp [uartRda, setTxe]
@[simp] theorem uartRda_clearTxe (x : Byte) : uartRda (clearTxe x) = uartRda x := by simp [uartRda, clearTxe]
@[simp] theorem uartTxe_setRda (x : Byte) : uartTxe (setRda x) = uartTxe x := by simp [uartTxe, setRda]
@[simp] theorem uartTxe_clearRda (x : Byte) : uartTxe (clearRda x) = uartTxe x := by simp [uartTxe, clearRda]

theorem setRda_above (x : Byte) : (setRda x).extractLsb' 1 7 = x.extractLsb' 1 7 := by revert x; decide
theorem clearRda_above (x : Byte) : (clearRda x).extractLsb' 1 7 = x.extractLsb' 1 7 := by revert x; decide
theorem setRda_storage (x : Byte) : (setRda x).extractLsb' 2 6 = x.extractLsb' 2 6 := by revert x; decide
theorem clearRda_storage (x : Byte) : (clearRda x).extractLsb' 2 6 = x.extractLsb' 2 6 := by revert x; decide
theorem setTxe_storage (x : Byte) : (setTxe x).extractLsb' 2 6 = x.extractLsb' 2 6 := by revert x; decide
theorem clearTxe_storage (x : Byte) : (clearTxe x).extractLsb' 2 6 = x.extractLsb' 2 6 := by revert x; decide
/-- Clearing `TXE` and setting it again leaves it set whatever it was (R126). -/
theorem setTxe_clearTxe (x : Byte) : setTxe (clearTxe x) = setTxe x := by revert x; decide

/-! ### `uart.control` -/

theorem uartBaud_masterReset (d : Byte) : uartBaud (masterResetControl d) = 0 := by revert d; decide
theorem uartRie_masterReset (d : Byte) : uartRie (masterResetControl d) = uartRie d := by revert d; decide
theorem isMasterReset_iff (d : Byte) : isMasterReset d = true ↔ uartBaud d = 0b11 := by simp [isMasterReset]

/-! ### `timer.control` -/

@[simp] theorem timerIf_setTimerIf (x : Byte) : timerIf (setTimerIf x) = true := by simp [timerIf, setTimerIf]
@[simp] theorem timerId_setTimerIf (x : Byte) : timerId (setTimerIf x) = timerId x := by simp [timerId, setTimerIf]
theorem setTimerIf_below (x : Byte) : (setTimerIf x).extractLsb' 0 7 = x.extractLsb' 0 7 := by revert x; decide
theorem setTimerIf_nibble (x : Byte) : (setTimerIf x).extractLsb' 0 4 = x.extractLsb' 0 4 := by revert x; decide
theorem setTimerIf_twice (x : Byte) : setTimerIf (setTimerIf x) = setTimerIf x := by revert x; decide

end Sys2Proof.Machine
end

