-- ==== Sys2Proof/Laws/Timer.lean ====
section
/-!
SUPPORT. What one cycle of the timer can do (R155), and what a run of cycles leaves alone.
-/

namespace Sys2Proof.Machine

/-- One cycle: no tick, a tick that steps the counter, or a tick that underflows it (R155). -/
theorem timerCycle_cases (s : State) :
    (s.timer.prescaler ≠ 1 ∧
      timerCycle s = s.setTimer { s.timer with prescaler := s.timer.prescaler - 1 }) ∨
    (s.timer.prescaler = 1 ∧ s.timer.data ≠ 0 ∧
      timerCycle s = s.setTimer { s.timer with prescaler := prescaleConst s.cfg, data := s.timer.data - 1 }) ∨
    (s.timer.prescaler = 1 ∧ s.timer.data = 0 ∧
      timerCycle s =
        { s with
          timer := { data := 0xFF, control := setTimerIf s.timer.control, prescaler := prescaleConst s.cfg }
          events := if timerId s.timer.control then s.events else s.events ++ [.irqTimer] }) := by
  by_cases hp : s.timer.prescaler = 1
  · have h0 : s.timer.prescaler - 1#7 = 0#7 := by simp [hp]
    by_cases hd : s.timer.data = 0#8
    · refine .inr (.inr ⟨hp, hd, ?_⟩)
      cases hid : timerId s.timer.control <;> simp [timerCycle, timerCount, timerUnderflow, h0, hd, hid] <;> rfl
    · exact .inr (.inl ⟨hp, hd, by simp [timerCycle, timerCount, h0, hd]; rfl⟩)
  · have h0 : s.timer.prescaler - 1#7 ≠ 0#7 := by
      intro h; exact hp (by bv_omega)
    exact .inl ⟨hp, by simp [timerCycle, h0]⟩

/-- One cycle touches the timer and the log alone. -/
theorem timerCycle_frame (s : State) :
    (timerCycle s).uart = s.uart ∧ (timerCycle s).mem = s.mem ∧ (timerCycle s).cycles = s.cycles ∧
    (timerCycle s).cfg = s.cfg ∧ (timerCycle s).attached = s.attached ∧ (timerCycle s).inputs = s.inputs ∧
    (timerCycle s).response = s.response := by
  rcases timerCycle_cases s with ⟨_, h⟩ | ⟨_, _, h⟩ | ⟨_, _, h⟩ <;> rw [h] <;> simp

/-- A run of cycles touches the timer and the log alone. -/
theorem timerCycles_frame (n : Nat) (s : State) :
    (timerCycles n s).uart = s.uart ∧ (timerCycles n s).mem = s.mem ∧ (timerCycles n s).cycles = s.cycles ∧
    (timerCycles n s).cfg = s.cfg ∧ (timerCycles n s).attached = s.attached ∧ (timerCycles n s).inputs = s.inputs ∧
    (timerCycles n s).response = s.response := by
  induction n generalizing s with
  | zero => simp [timerCycles]
  | succ n ih =>
    have h := ih (timerCycle s)
    have h1 := timerCycle_frame s
    simp only [timerCycles, h, h1, and_self]

/-- Cycles add up. -/
theorem timerCycles_add (a b : Nat) (s : State) : timerCycles (a + b) s = timerCycles b (timerCycles a s) := by
  induction a generalizing s with
  | zero => simp [timerCycles]
  | succ a ih => rw [Nat.add_right_comm]; exact ih _

/-- The cycle counter has no part in a cycle of the timer. -/
theorem timerCycle_setCycles (s : State) (c : Nat) : timerCycle (s.setCycles c) = (timerCycle s).setCycles c := by
  rcases timerCycle_cases s with ⟨h1, e⟩ | ⟨h1, h2, e⟩ | ⟨h1, h2, e⟩ <;>
    rcases timerCycle_cases (s.setCycles c) with ⟨g1, f⟩ | ⟨g1, g2, f⟩ | ⟨g1, g2, f⟩ <;>
    first
      | exact absurd h1 g1
      | exact absurd g1 h1
      | exact absurd h2 g2
      | exact absurd g2 h2
      | (rw [e, f]; done)
      | (rw [e, f]; exact rfl)

/-- What every setting of `IF` keeps, a run of cycles keeps. -/
theorem timerCycles_control (f : Byte → Prop) (hf : ∀ x, f x → f (setTimerIf x)) (n : Nat) (s : State)
    (h : f s.timer.control) : f (timerCycles n s).timer.control := by
  induction n generalizing s with
  | zero => exact h
  | succ n ih =>
    apply ih
    rcases timerCycle_cases s with ⟨_, e⟩ | ⟨_, _, e⟩ | ⟨_, _, e⟩ <;> rw [e]
    · exact h
    · exact h
    · exact hf _ h

@[simp] theorem timerAdvanced_uart (n : Nat) (s : State) : (timerAdvanced n s).uart = s.uart := by
  simp [timerAdvanced, timerCycles_frame]
@[simp] theorem timerAdvanced_mem (n : Nat) (s : State) : (timerAdvanced n s).mem = s.mem := by
  simp [timerAdvanced, timerCycles_frame]
@[simp] theorem timerAdvanced_cfg (n : Nat) (s : State) : (timerAdvanced n s).cfg = s.cfg := by
  simp [timerAdvanced, timerCycles_frame]
@[simp] theorem timerAdvanced_attached (n : Nat) (s : State) : (timerAdvanced n s).attached = s.attached := by
  simp [timerAdvanced, timerCycles_frame]
@[simp] theorem timerAdvanced_inputs (n : Nat) (s : State) : (timerAdvanced n s).inputs = s.inputs := by
  simp [timerAdvanced, timerCycles_frame]
@[simp] theorem timerAdvanced_response (n : Nat) (s : State) : (timerAdvanced n s).response = none := by
  simp [timerAdvanced, timerCycles_frame]
@[simp] theorem timerAdvanced_cycles (n : Nat) (s : State) : (timerAdvanced n s).cycles = s.cycles + n := by
  simp [timerAdvanced]

end Sys2Proof.Machine
end

