-- ==== Sys2Proof/Laws/Exec.lean ====
section
/-!
SUPPORT. Everything one operation can do, said once: a dispatch is the operation its select names, and an operation that gives a
next state is one of eighteen effects after RESET or one of three before it.
-/

namespace Sys2Proof.Machine

/-- `BUS.RD` is the read its select names. -/
theorem exec_busRd_selected (s : State) (a : Addr) : exec (.busRd a) s = exec (selectedRead a (s.cfg.select a)) s := by
  rcases h : s.cfg.select a with _ | off | off | _
  · simp [exec, execBusRd, selectedRead, busRead, h, execPinRd]
  · rcases offset_uart_cases off with rfl | rfl | rfl | rfl <;>
      simp [exec, execBusRd, selectedRead, busRead, h, execUartRdControl, execUartRdTxdata, execUartRdStatus,
        execUartRdRxdata]
  · rcases offset_timer_cases off with rfl | rfl <;>
      simp [exec, execBusRd, selectedRead, busRead, h, execTimerRdControl, execTimerRdData]
  · simp [exec, execBusRd, selectedRead, busRead, h, execMemRd, whenMemSelected]

/-- `BUS.WR` is the write its select names. -/
theorem exec_busWr_selected (s : State) (a : Addr) (d : Byte) :
    exec (.busWr a d) s = exec (selectedWrite a d (s.cfg.select a)) s := by
  rcases h : s.cfg.select a with _ | off | off | _
  · simp [exec, execBusWr, selectedWrite, busWrite, h, execTraceWr]
  · rcases offset_uart_cases off with rfl | rfl | rfl | rfl <;>
      simp [exec, execBusWr, selectedWrite, busWrite, h, execUartWrControl, execUartWrTxdata, execUartWrStatus,
        execUartWrRxdata]
  · rcases offset_timer_cases off with rfl | rfl <;>
      simp [exec, execBusWr, selectedWrite, busWrite, h, execTimerWrControl, execTimerWrData]
  · simp [exec, execBusWr, selectedWrite, busWrite, h, execMemWr, whenMemSelected]

/-- Every operation is its leaf. -/
theorem exec_leafOf (i : Instr) (s : State) : exec (leafOf s.cfg i) s = exec i s := by
  cases i <;> try rfl
  · rw [leafOf_busRd, exec_busRd_selected]
  · rw [leafOf_busWr, exec_busWr_selected]

theorem leafOf_ne_busRd (c : Config) (i : Instr) (a : Addr) : leafOf c i ≠ .busRd a := by
  cases i
  case busRd b => rw [leafOf_busRd]; intro h; have := selectedRead_mem b (c.select b); rw [h] at this; simp at this
  case busWr b d => rw [leafOf_busWr]; intro h; have := selectedWrite_mem b d (c.select b); rw [h] at this; simp at this
  all_goals simp [leafOf]

theorem leafOf_ne_busWr (c : Config) (i : Instr) (a : Addr) (d : Byte) : leafOf c i ≠ .busWr a d := by
  cases i
  case busRd b => rw [leafOf_busRd]; intro h; have := selectedRead_mem b (c.select b); rw [h] at this; simp at this
  case busWr b e => rw [leafOf_busWr]; intro h; have := selectedWrite_mem b e (c.select b); rw [h] at this; simp at this
  all_goals simp [leafOf]

/-- An advance does not come over the bus. -/
theorem leafOf_eq_advance {c : Config} {i : Instr} {n : Nat} (h : leafOf c i = .timerAdvance n) : i = .timerAdvance n := by
  cases i
  case busRd b => rw [leafOf_busRd] at h; have := selectedRead_mem b (c.select b); rw [h] at this; simp at this
  case busWr b d => rw [leafOf_busWr] at h; have := selectedWrite_mem b d (c.select b); rw [h] at this; simp at this
  all_goals exact h

/-- RESET and its parts do not come over the bus. -/
theorem leafOf_attach {c : Config} {i : Instr} (h : isAttach (leafOf c i) = true) : leafOf c i = i := by
  cases i
  case busRd b =>
    rw [leafOf_busRd] at h
    have hm := selectedRead_mem b (c.select b)
    revert h hm
    generalize selectedRead b (c.select b) = j
    cases j <;> simp [isAttach]
  case busWr b d =>
    rw [leafOf_busWr] at h
    have hm := selectedWrite_mem b d (c.select b)
    revert h hm
    generalize selectedWrite b d (c.select b) = j
    cases j <;> simp [isAttach]
  all_goals rfl

/-- The effect of each leaf operation after RESET. -/
inductive Performs (s : State) : Instr → State → Prop
  | pinRd : Performs s .pinRd (pinRead s)
  | traceWr (d : Byte) : Performs s (.traceWr d) (traceWrite d s)
  | uartRdControl : Performs s .uartRdControl (uartReadControl s)
  | uartRdTxdata : Performs s .uartRdTxdata (uartReadTxdata s)
  | uartRdStatus : Performs s .uartRdStatus (uartReadStatus s)
  | uartRdRxdata : Performs s .uartRdRxdata (uartReadRxdata s)
  | uartWrControl (d : Byte) : Performs s (.uartWrControl d) (uartWriteControl d s)
  | uartWrTxdata (d : Byte) : Performs s (.uartWrTxdata d) (uartWriteTxdata d s)
  | uartWrStatus (d : Byte) : Performs s (.uartWrStatus d) (uartWriteStatus d s)
  | uartWrRxdata (d : Byte) : Performs s (.uartWrRxdata d) (uartWriteRxdata d s)
  | timerRdData : Performs s .timerRdData (timerReadData s)
  | timerRdControl : Performs s .timerRdControl (timerReadControl s)
  | timerWrData (d : Byte) : Performs s (.timerWrData d) (timerWriteData d s)
  | timerWrControl (d : Byte) : Performs s (.timerWrControl d) (timerWriteControl d s)
  | memRd (a : Addr) (h : s.cfg.select a = .mem) : Performs s (.memRd a) (plainRead a s)
  | memWr (a : Addr) (d : Byte) (h : s.cfg.select a = .mem) : Performs s (.memWr a d) (plainWrite a d s)
  | uartReceive (b : Byte) : Performs s (.uartReceive b) (uartReceived b s)
  | timerAdvance (n : Nat) : Performs s (.timerAdvance n) (timerAdvanced n s)

/-- The effect of RESET and of its parts. -/
inductive Attaches (s : State) : Instr → State → Prop
  | reset : Attaches s .reset (resetDone s)
  | uartAttach : Attaches s .uartAttach (uartAttached s.quiet)
  | timerAttach : Attaches s .timerAttach (timerAttached s.quiet)

/-- Everything an operation can do when it gives a next state. -/
theorem exec_cases {i : Instr} {s t : State} (h : exec i s = .next t) :
    (s.attached = true ∧ Performs s (leafOf s.cfg i) t) ∨ (s.attached = false ∧ Attaches s i t) := by
  rw [← exec_leafOf] at h
  by_cases ha : isAttach (leafOf s.cfg i) = true
  · rw [leafOf_attach ha] at h ha
    right
    revert h ha
    cases i <;> simp [isAttach] <;> intro h
    · obtain ⟨h1, rfl⟩ := whenUnattached_next.1 h; exact ⟨h1, .reset⟩
    · obtain ⟨h1, rfl⟩ := whenUnattached_next.1 h; exact ⟨h1, .uartAttach⟩
    · obtain ⟨h1, rfl⟩ := whenUnattached_next.1 h; exact ⟨h1, .timerAttach⟩
  · left
    have hr := leafOf_ne_busRd s.cfg i
    have hw := leafOf_ne_busWr s.cfg i
    revert h ha hr hw
    generalize leafOf s.cfg i = j
    cases j <;> simp [isAttach] <;> intro h
    case memRd => obtain ⟨h0, h1, rfl⟩ := whenMemSelected_next.1 h; exact ⟨h1, .memRd _ h0⟩
    case memWr => obtain ⟨h0, h1, rfl⟩ := whenMemSelected_next.1 h; exact ⟨h1, .memWr _ _ h0⟩
    all_goals
      obtain ⟨h1, rfl⟩ := whenAttached_next.1 h
      refine ⟨h1, ?_⟩
      constructor

/-- An effect after RESET is what the operation answers. -/
theorem exec_of_performs {i : Instr} {s t : State} (ha : s.attached = true) (h : Performs s (leafOf s.cfg i) t) :
    exec i s = .next t := by
  rw [← exec_leafOf]
  generalize leafOf s.cfg i = j at h
  cases h <;> first
    | exact whenAttached_next.2 ⟨ha, rfl⟩
    | exact whenMemSelected_next.2 ⟨by assumption, ha, rfl⟩

/-! ### Runs -/

theorem execAll_cons {i : Instr} {is : List Instr} {s t : State} (h : exec i s = .next t) :
    execAll (i :: is) s = execAll is t := by
  simp [execAll, h]

theorem execAll_append {is js : List Instr} {s t : State} (h : execAll is s = .next t) :
    execAll (is ++ js) s = execAll js t := by
  induction is generalizing s with
  | nil => simp [execAll] at h; simp [h]
  | cons i is ih =>
    simp only [List.cons_append, execAll] at h ⊢
    split at h <;> simp_all

/-- A property of the state without its pending stimuli that every operation keeps is kept by every step. -/
theorem step_keeps (P : State → Prop) (hin : ∀ (s : State) (r : List Stimulus), P s → P { s with inputs := r })
    (hP : ∀ (i : Instr) (s t : State), P s → exec i s = .next t → P t) (s t : State) (hs : P s) (h : step s = .next t) :
    P t := by
  unfold step at h
  split at h
  · injection h with h; subst h; exact hs
  · split at h
    · exact hP _ _ _ (hin _ _ hs) h
    · cases h

end Sys2Proof.Machine
end

