-- ==== Sys2Proof/Laws/PerInstr.lean ====
section
/-!
SUPPORT. Statements for all operations, made operation by operation.
-/

namespace Sys2Proof.Laws.TableRow

open Sys2Proof Sys2Proof.Machine

/-- The stimulus that encodes a well-formed operation has a word inside the operation's row of the table: the word under
the row's mask is the row's pattern (R83, R84, R85). -/
def Statement (i : Instr) : Prop :=
  ∀ c : Config, i.wellFormed c = true → (encode c i).tableWord c &&& i.tableRow.mask = i.tableRow.pattern

theorem busRd (addr : Addr) : Statement (.busRd addr) := by
  intro c _
  show (c.stage1 ⟨0, addr, 0⟩).bits.toNat &&& 0x04 = 0x00
  unfold Config.stage1
  dsimp only
  rcases c.select addr with _ | off | off | _
  · rfl
  · rcases offset_uart_cases off with rfl | rfl | rfl | rfl <;> rfl
  · rcases offset_timer_cases off with rfl | rfl <;> rfl
  · rfl

theorem busWr (addr : Addr) (data : Byte) : Statement (.busWr addr data) := by
  intro c _
  show (c.stage1 ⟨1, addr, data⟩).bits.toNat &&& 0x04 = 0x04
  unfold Config.stage1
  dsimp only
  rcases c.select addr with _ | off | off | _
  · rfl
  · rcases offset_uart_cases off with rfl | rfl | rfl | rfl <;> rfl
  · rcases offset_timer_cases off with rfl | rfl <;> rfl
  · rfl

/-- The word of a transaction, once the select of its address is known. -/
theorem word_of_select (c : Config) (rw : BitVec 1) (a : Addr) (d : Byte) (sel : Select) (h : c.select a = sel) :
    Stimulus.tableWord c (.bus ⟨rw, a, d⟩) = (sel.code ++ rw ++ sel.off : BitVec 5).toNat := by
  simp only [Stimulus.tableWord, Config.stage1, h]

theorem pinRd : Statement .pinRd := by
  intro c _
  show Stimulus.tableWord c (.bus ⟨0, pinAddr, 0⟩) &&& 0x1C = 0x00
  rw [word_of_select c _ _ _ .pin ((c.select_eq_pin _).2 rfl)]; rfl

theorem traceWr (data : Byte) : Statement (.traceWr data) := by
  intro c _
  show Stimulus.tableWord c (.bus ⟨1, pinAddr, data⟩) &&& 0x1C = 0x04
  rw [word_of_select c _ _ _ .pin ((c.select_eq_pin _).2 rfl)]; rfl

theorem uartRdControl : Statement .uartRdControl := by
  intro c h
  have h0 : c.uartBase ≠ 0 := of_decide_eq_true h
  show Stimulus.tableWord c (.bus ⟨0, BitVec.ofNat 16 (c.uartBase + 0), 0⟩) &&& 0x1F = 0x08
  rw [word_of_select c _ _ _ _ (c.select_uart_at 0 (by decide) (by omega))]; rfl

theorem uartRdTxdata : Statement .uartRdTxdata := by
  intro c _
  show Stimulus.tableWord c (.bus ⟨0, BitVec.ofNat 16 (c.uartBase + 1), 0⟩) &&& 0x1F = 0x09
  rw [word_of_select c _ _ _ _ (c.select_uart_at 1 (by decide) (by omega))]; rfl

theorem uartRdStatus : Statement .uartRdStatus := by
  intro c _
  show Stimulus.tableWord c (.bus ⟨0, BitVec.ofNat 16 (c.uartBase + 2), 0⟩) &&& 0x1F = 0x0A
  rw [word_of_select c _ _ _ _ (c.select_uart_at 2 (by decide) (by omega))]; rfl

theorem uartRdRxdata : Statement .uartRdRxdata := by
  intro c _
  show Stimulus.tableWord c (.bus ⟨0, BitVec.ofNat 16 (c.uartBase + 3), 0⟩) &&& 0x1F = 0x0B
  rw [word_of_select c _ _ _ _ (c.select_uart_at 3 (by decide) (by omega))]; rfl

theorem uartWrControl (data : Byte) : Statement (.uartWrControl data) := by
  intro c h
  have h0 : c.uartBase ≠ 0 := of_decide_eq_true h
  show Stimulus.tableWord c (.bus ⟨1, BitVec.ofNat 16 (c.uartBase + 0), data⟩) &&& 0x1F = 0x0C
  rw [word_of_select c _ _ _ _ (c.select_uart_at 0 (by decide) (by omega))]; rfl

theorem uartWrTxdata (data : Byte) : Statement (.uartWrTxdata data) := by
  intro c _
  show Stimulus.tableWord c (.bus ⟨1, BitVec.ofNat 16 (c.uartBase + 1), data⟩) &&& 0x1F = 0x0D
  rw [word_of_select c _ _ _ _ (c.select_uart_at 1 (by decide) (by omega))]; rfl

theorem uartWrStatus (data : Byte) : Statement (.uartWrStatus data) := by
  intro c _
  show Stimulus.tableWord c (.bus ⟨1, BitVec.ofNat 16 (c.uartBase + 2), data⟩) &&& 0x1F = 0x0E
  rw [word_of_select c _ _ _ _ (c.select_uart_at 2 (by decide) (by omega))]; rfl

theorem uartWrRxdata (data : Byte) : Statement (.uartWrRxdata data) := by
  intro c _
  show Stimulus.tableWord c (.bus ⟨1, BitVec.ofNat 16 (c.uartBase + 3), data⟩) &&& 0x1F = 0x0F
  rw [word_of_select c _ _ _ _ (c.select_uart_at 3 (by decide) (by omega))]; rfl

theorem timerRdData : Statement .timerRdData := by
  intro c h
  have h0 : c.timerBase ≠ 0 := of_decide_eq_true h
  show Stimulus.tableWord c (.bus ⟨0, BitVec.ofNat 16 (c.timerBase + 0), 0⟩) &&& 0x1F = 0x10
  rw [word_of_select c _ _ _ _ (c.select_timer_at 0 (by decide) (by omega))]; rfl

theorem timerRdControl : Statement .timerRdControl := by
  intro c _
  show Stimulus.tableWord c (.bus ⟨0, BitVec.ofNat 16 (c.timerBase + 1), 0⟩) &&& 0x1F = 0x11
  rw [word_of_select c _ _ _ _ (c.select_timer_at 1 (by decide) (by omega))]; rfl

theorem timerWrData (data : Byte) : Statement (.timerWrData data) := by
  intro c h
  have h0 : c.timerBase ≠ 0 := of_decide_eq_true h
  show Stimulus.tableWord c (.bus ⟨1, BitVec.ofNat 16 (c.timerBase + 0), data⟩) &&& 0x1F = 0x14
  rw [word_of_select c _ _ _ _ (c.select_timer_at 0 (by decide) (by omega))]; rfl

theorem timerWrControl (data : Byte) : Statement (.timerWrControl data) := by
  intro c _
  show Stimulus.tableWord c (.bus ⟨1, BitVec.ofNat 16 (c.timerBase + 1), data⟩) &&& 0x1F = 0x15
  rw [word_of_select c _ _ _ _ (c.select_timer_at 1 (by decide) (by omega))]; rfl

theorem memRd (addr : Addr) : Statement (.memRd addr) := by
  intro c h
  show Stimulus.tableWord c (.bus ⟨0, addr, 0⟩) &&& 0x1C = 0x18
  rw [word_of_select c _ _ _ .mem ((c.select_eq_mem _).2 h)]; rfl

theorem memWr (addr : Addr) (data : Byte) : Statement (.memWr addr data) := by
  intro c h
  show Stimulus.tableWord c (.bus ⟨1, addr, data⟩) &&& 0x1C = 0x1C
  rw [word_of_select c _ _ _ .mem ((c.select_eq_mem _).2 h)]; rfl

theorem reset : Statement .reset := by
  intro c _
  show (0#2).toNat &&& 0x03 = 0x00
  rfl

theorem uartAttach : Statement .uartAttach := by
  intro c _
  show (0#2).toNat &&& 0x03 = 0x00
  rfl

theorem timerAttach : Statement .timerAttach := by
  intro c _
  show (0#2).toNat &&& 0x03 = 0x00
  rfl

theorem uartReceive (byte : Byte) : Statement (.uartReceive byte) := by
  intro c _
  show (1#2).toNat &&& 0x03 = 0x01
  rfl

theorem timerAdvance (n : Nat) : Statement (.timerAdvance n) := by
  intro c _
  show (2#2).toNat &&& 0x03 = 0x02
  rfl

end Sys2Proof.Laws.TableRow
end

