-- ==== Sys2Proof/Tests/Slice0.lean ====
section
/-!
SUPPORT. Tests of the model. Expected values are the spec's own: the examples of its rules and the vectors of
spec/95_test_vectors.md under its test configuration CFG-T, which is not the hardware's. The last part shows, for each
statement with hypotheses, a concrete input that meets them.
-/

open Sys2Proof Sys2Proof.Machine

namespace Sys2Proof.Tests

/-! ### The states the tests start from -/

/-- CFG-T of 95_test_vectors.md section 0, with an image, a prescaler constant and a low nibble. -/
def params (image : List Host.Cell) (p psel : Nat) : Params :=
  { uartBase := 0x8000, timerBase := 0x8010, prescale := p, psel := psel, pinReadValue := 0x01, memInit := image }

/-- CFG-T. -/
def cfgT : Config := { toParams := params [] 4 7, ok := by decide }

/-- CFG-T with the image of vector 2.2. -/
def cfgImage : Config :=
  { toParams := params [(0, 0xEE), (0x0100, 0x9D), (0x8000, 0x11), (0x8003, 0x22), (0x8011, 0x33)] 4 7, ok := by decide }

/-- CFG-T with the low nibble 0xF, and with `P` = 127. -/
def cfgNibble : Config := { toParams := params [] 4 15, ok := by decide }
def cfgSlow : Config := { toParams := params [] 127 7, ok := by decide }

/-- The second configuration of vector 2.1, and one whose timer lies at the sentinel. -/
def cfgMoved : Config := { toParams := { params [] 4 7 with uartBase := 0xFFFC, timerBase := 0x0001 }, ok := by decide }
def cfgShadow : Config := { toParams := { params [] 4 7 with timerBase := 0x0000 }, ok := by decide }

/-- The reset state under CFG-T, and the state before RESET. -/
def s0 : State := State.afterReset cfgT
def sPre : State := { s0 with attached := false }

/-- The reset state with other serial registers: control, tx_data, status, rx_data. -/
def sUart (ctl tx st rx : Byte) : State := { s0 with uart := ⟨ctl, tx, st, rx⟩ }

/-- The reset state with other timer registers: data, control, prescaler. -/
def sTimer (d ctl : Byte) (p : BitVec 7) : State := { s0 with timer := ⟨d, ctl, p⟩ }

/-- The next state of one operation, if it has one. -/
def after (i : Instr) (s : State) : Option State :=
  match exec i s with
  | .next t => some t
  | _ => none

/-- The next state of one step, if it has one. -/
def stepped (s : State) : Option State :=
  match step s with
  | .next t => some t
  | _ => none

/-! ### Well-formed configurations and operations: one ill-formed term for each check (R6, R109, R181; vector 2.1) -/

theorem test_params_ok : (params [] 4 7).wellFormed = true := by decide
theorem test_params_uart_past_the_top : ({ params [] 4 7 with uartBase := 0xFFFD } : Params).wellFormed = false := by decide
theorem test_params_timer_past_the_top : ({ params [] 4 7 with timerBase := 0xFFFF } : Params).wellFormed = false := by decide
theorem test_params_overlap : ({ params [] 4 7 with timerBase := 0x8003 } : Params).wellFormed = false := by decide
theorem test_params_prescale_0 : (params [] 0 7).wellFormed = false := by decide
theorem test_params_prescale_128 : (params [] 128 7).wellFormed = false := by decide
theorem test_params_psel_16 : (params [] 4 16).wellFormed = false := by decide
theorem test_params_image_past_the_top : (params [(0x10000, 0x01)] 4 7).wellFormed = false := by decide
theorem test_params_image_not_rising : (params [(2, 0x01), (1, 0x01)] 4 7).wellFormed = false := by decide
theorem test_params_refused : Config.ofParams (params [] 0 7) = none := by decide

theorem test_wf_memRd : (Instr.memRd 0x8003).wellFormed cfgT = false ∧ (Instr.memRd 0x0000).wellFormed cfgT = false ∧
    (Instr.memRd 0x8004).wellFormed cfgT = true := by decide
theorem test_wf_memWr : (Instr.memWr 0x8011 0x5A).wellFormed cfgT = false ∧
    (Instr.memWr 0x8012 0x5A).wellFormed cfgT = true := by decide
theorem test_wf_timer_at_sentinel : Instr.timerRdData.wellFormed cfgShadow = false ∧
    (Instr.timerWrData 0).wellFormed cfgShadow = false ∧ Instr.timerRdControl.wellFormed cfgShadow = true := by decide
theorem test_wf_uart_at_sentinel :
    let c : Config := { toParams := { params [] 4 7 with uartBase := 0 }, ok := by decide }
    Instr.uartRdControl.wellFormed c = false ∧ (Instr.uartWrControl 0).wellFormed c = false ∧
      Instr.uartRdTxdata.wellFormed c = true := by decide

/-! ### Decoding: words written out bit by bit from R80, R83, R84 and R85 -/

theorem test_decode_pin : decodeLocal ⟨0b00_0_00, 0, 0⟩ = .ok .pinRd ∧
    decodeLocal ⟨0b00_1_00, 0, 0x01⟩ = .ok (.traceWr 0x01) := ⟨rfl, rfl⟩
theorem test_decode_uart_reads : decodeLocal ⟨0b01_0_00, 0, 0⟩ = .ok .uartRdControl ∧
    decodeLocal ⟨0b01_0_01, 0, 0⟩ = .ok .uartRdTxdata ∧ decodeLocal ⟨0b01_0_10, 0, 0⟩ = .ok .uartRdStatus ∧
    decodeLocal ⟨0b01_0_11, 0, 0⟩ = .ok .uartRdRxdata := ⟨rfl, rfl, rfl, rfl⟩
theorem test_decode_uart_writes : decodeLocal ⟨0b01_1_00, 0, 0x95⟩ = .ok (.uartWrControl 0x95) ∧
    decodeLocal ⟨0b01_1_01, 0, 0x41⟩ = .ok (.uartWrTxdata 0x41) ∧
    decodeLocal ⟨0b01_1_10, 0, 0xFF⟩ = .ok (.uartWrStatus 0xFF) ∧
    decodeLocal ⟨0b01_1_11, 0, 0x7E⟩ = .ok (.uartWrRxdata 0x7E) := ⟨rfl, rfl, rfl, rfl⟩
theorem test_decode_timer : decodeLocal ⟨0b10_0_00, 0, 0⟩ = .ok .timerRdData ∧
    decodeLocal ⟨0b10_0_01, 0, 0⟩ = .ok .timerRdControl ∧ decodeLocal ⟨0b10_1_00, 0, 0xAB⟩ = .ok (.timerWrData 0xAB) ∧
    decodeLocal ⟨0b10_1_01, 0, 0x48⟩ = .ok (.timerWrControl 0x48) := ⟨rfl, rfl, rfl, rfl⟩
theorem test_decode_mem : decodeLocal ⟨0b11_0_00, 0x0100, 0⟩ = .ok (.memRd 0x0100) ∧
    decodeLocal ⟨0b11_1_00, 0xFFFF, 0x12⟩ = .ok (.memWr 0xFFFF 0x12) := ⟨rfl, rfl⟩
/-- `T` = 0, 1000000000000011, 00000000 is a read of 0x8003; with bit 24 set and data 01011010 a write of 0x5A. -/
theorem test_decode_bus :
    decode (.bus (Transaction.ofWord 0b0_1000000000000011_00000000)) = .ok (.busRd 0x8003) ∧
    decode (.bus (Transaction.ofWord 0b1_0000000100000000_01011010)) = .ok (.busWr 0x0100 0x5A) := ⟨rfl, rfl⟩
/-- RESET has the word of its two parts (R85). -/
theorem test_decode_events : decode (.event ⟨0b00, 0⟩) = .ok .reset ∧ decode (.event ⟨0b01, 0xFF⟩) = .ok (.uartReceive 0xFF) ∧
    decode (.event ⟨0b10, 0⟩) = .ok (.timerAdvance 0) ∧ encode cfgT .uartAttach = .event ⟨0b00, 0⟩ ∧
    encode cfgT .timerAttach = .event ⟨0b00, 0⟩ := ⟨rfl, rfl, rfl, rfl, rfl⟩
/-- The decoder boundaries of vector 2.1. -/
theorem test_select_boundaries : cfgT.select 0x0000 = .pin ∧ cfgT.select 0x7FFF = .mem ∧ cfgT.select 0x8000 = .uart 0 ∧
    cfgT.select 0x8003 = .uart 3 ∧ cfgT.select 0x8004 = .mem ∧ cfgT.select 0x800F = .mem ∧
    cfgT.select 0x8010 = .timer 0 ∧ cfgT.select 0x8011 = .timer 1 ∧ cfgT.select 0x8012 = .mem ∧
    cfgT.select 0xFFFF = .mem := by decide
theorem test_select_moved : cfgMoved.select 0xFFFF = .uart 3 ∧ cfgMoved.select 0x0002 = .timer 1 ∧
    cfgMoved.select 0x0003 = .mem ∧ cfgShadow.select 0x0000 = .pin ∧ cfgShadow.select 0x0001 = .timer 1 := by decide

/-- No word of `L` lies in the rows of two leaf operations. -/
theorem test_leaf_rows_disjoint :
    ([.pinRd, .traceWr 0, .uartRdControl, .uartRdTxdata, .uartRdStatus, .uartRdRxdata, .uartWrControl 0, .uartWrTxdata 0,
      .uartWrStatus 0, .uartWrRxdata 0, .timerRdData, .timerRdControl, .timerWrData 0, .timerWrControl 0, .memRd 0,
      .memWr 0 0] : List Instr).Pairwise
      (fun i j => (i.tableRow.pattern ^^^ j.tableRow.pattern) &&& (i.tableRow.mask &&& j.tableRow.mask) ≠ 0) := by decide

/-- What the host's word of a row gives, and that the first step after reset runs it. -/
theorem test_table_word : decodeTableWord 8 0x15 = some (.timerWrControl 0) ∧ decodeTableWord 8 0x02 = some (.timerAdvance 0) ∧
    decodeTableWord 8 0x12 = none := by decide
theorem test_fetch_word : (stepped (State.reset.withFetchWord 8 0x18)).isSome = true ∧
    (stepped (State.reset.withFetchWord 8 0x12)).isSome = false := by decide

/-! ### One step of each operation -/

theorem test_busRd_past_the_timer : (after (.busRd 0x8012) s0).bind (·.response) = some 0x00 := by decide
theorem test_busRd_pin_over_memory :
    (after (.busRd 0x0000) (State.afterReset cfgImage)).bind (·.response) = some 0x01 := by decide
theorem test_busWr_transmit : (after (.busWr 0x8001 0x41) s0).map (·.events) = some [.tx 0x41] := by decide
theorem test_busWr_master_reset : (after (.busWr 0x8000 0x77) s0).map (·.uart) = some ⟨0x74, 0x00, 0x02, 0x00⟩ := by decide
theorem test_pinRd : (after .pinRd s0).bind (·.response) = some 0x01 := by decide
theorem test_traceWr_bit_0 : (after (.traceWr 0xFE) { s0 with cycles := 37 }).map (·.events) = some [.trace 37 false] := by
  decide
theorem test_traceWr_bit_1 : (after (.traceWr 0x01) { s0 with cycles := 37 }).map (·.events) = some [.trace 37 true] := by
  decide
theorem test_uartRdControl : (after .uartRdControl (sUart 0x95 0 2 0)).bind (·.response) = some 0x95 := by decide
theorem test_uartRdTxdata : (after .uartRdTxdata (sUart 0 0x42 2 0)).bind (·.response) = some 0x42 := by decide
theorem test_uartRdStatus : (after .uartRdStatus (sUart 0 0 0x03 0x61)).bind (·.response) = some 0x03 := by decide
theorem test_uartRdRxdata : (after .uartRdRxdata (sUart 0 0 0x03 0x61)).bind (·.response) = some 0x61 := by decide
theorem test_uartRdRxdata_clears_rda : (after .uartRdRxdata (sUart 0 0 0xFF 0)).map (·.uart.status) = some 0xFE := by decide
theorem test_uartWrControl_reset : (after (.uartWrControl 0x83) (sUart 0x95 0 0x03 0x0D)).map (·.uart) =
    some ⟨0x80, 0x00, 0x02, 0x0D⟩ := by decide
theorem test_uartWrControl_plain : (after (.uartWrControl 0x02) (sUart 0 0 0x03 0x0D)).map (·.uart) =
    some ⟨0x02, 0x00, 0x03, 0x0D⟩ := by decide
theorem test_uartWrTxdata : (after (.uartWrTxdata 0x55) (sUart 0 0 0 0)).map (fun t => (t.uart, t.events)) =
    some (⟨0x00, 0x55, 0x02, 0x00⟩, [.tx 0x55]) := by decide
theorem test_uartWrStatus : (after (.uartWrStatus 0xFF) s0).map (·.uart.status) = some 0xFF := by decide
theorem test_uartWrRxdata : (after (.uartWrRxdata 0x7E) (sUart 0 0x55 2 0)).map (·.uart) =
    some ⟨0x00, 0x55, 0x02, 0x7E⟩ := by decide
theorem test_timerRdData : (after .timerRdData (sTimer 0xAB 0x87 4)).bind (·.response) = some 0xAB := by decide
theorem test_timerRdControl_masks_bit_3 :
    (after .timerRdControl (State.afterReset cfgNibble)).bind (·.response) = some 0xC7 := by decide
theorem test_timerWrData : (after (.timerWrData 0xAB) (sTimer 0 0x87 3)).map (·.timer) = some ⟨0xAB, 0x87, 3⟩ := by decide
theorem test_timerWrControl_reload : (after (.timerWrControl 0xC8) (sTimer 0 0xC7 1)).map (·.timer) =
    some ⟨0x00, 0xC7, 4⟩ := by decide
theorem test_timerWrControl_plain : (after (.timerWrControl 0x00) (sTimer 0xFE 0x87 3)).map (·.timer) =
    some ⟨0xFE, 0x07, 3⟩ := by decide
theorem test_memRd_image : (after (.memRd 0x0100) (State.afterReset cfgImage)).bind (·.response) = some 0x9D := by decide
theorem test_memWr_top : (after (.memWr 0xFFFF 0x12) s0).map (·.mem) = some [(0xFFFF, 0x12)] := by decide
theorem test_memWr_of_the_image_byte :
    (after (.memWr 0x0100 0x9D) { State.afterReset cfgImage with mem := [(0x0100, 0x5A)] }).map (·.mem) = some [] := by decide
theorem test_reset : after .reset { sUart 1 2 3 4 with attached := false, cycles := 9 } = some s0 := by decide
theorem test_uartAttach : (after .uartAttach { sUart 1 2 3 4 with attached := false }).map (·.uart) =
    some ⟨0x00, 0x00, 0x02, 0x00⟩ := by decide
theorem test_timerAttach : (after .timerAttach { sTimer 9 9 9 with attached := false }).map (·.timer) =
    some ⟨0x00, 0xC7, 4⟩ := by decide
theorem test_uartReceive_reports : (after (.uartReceive 0x32) (sUart 0x80 0 0x03 0x31)).map (fun t => (t.uart, t.events)) =
    some (⟨0x80, 0x00, 0x03, 0x32⟩, [.irqUartRx]) := by decide
theorem test_uartReceive_silent : (after (.uartReceive 0x61) s0).map (fun t => (t.uart, t.events)) =
    some (⟨0x00, 0x00, 0x03, 0x61⟩, []) := by decide
/-- Rows 7 and 8 of vector 2.7. -/
theorem test_timerAdvance_8 : (after (.timerAdvance 8) (sTimer 0x01 0x07 4)).map (fun t => (t.timer, t.events)) =
    some (⟨0xFF, 0x87, 4⟩, [.irqTimer]) := by decide
theorem test_timerAdvance_7 : (after (.timerAdvance 7) (sTimer 0x01 0x07 4)).map (fun t => (t.timer, t.events)) =
    some (⟨0x00, 0x07, 1⟩, []) := by decide

/-! ### The closed form of R156, at the spec's own numbers -/

theorem test_closed_form_check : closedTicks 4 4 8 = 2 ∧ closedPrescaler 4 4 8 = 4 ∧ closedUnderflows 1 2 = 1 ∧
    closedData 1 2 = 255 := by decide
/-- Rows 14 and 17 of vector 2.7: 1028 cycles hold two underflows, and 600 cycles are 150 ticks. -/
theorem test_closed_form_rows : closedUnderflows 0 (closedTicks 4 4 1028) = 2 ∧ closedTicks 4 4 600 = 150 ∧
    closedData 0x80 150 = 0xEA := by decide

/-! ### The environment's order (R201, R204, R206 to R208) -/

/-- Accesses, `ADV`, `RX` on either side of it; and instructions without an access. -/
theorem test_order_ok : instructionOrder .beforeReset
    [.reset, .timerAdvance 2, .busRd 0x100, .busWr 0x8001 0x41, .timerAdvance 5, .uartReceive 0x61, .busRd 0x101,
     .uartReceive 0x62, .timerAdvance 2, .timerAdvance 1] = true := by decide
/-- Lines 1 to 8 of P4 (ADV, RX, ADV) and of P5 (ADV after RESET), and lines 6 to 9 of P2 (ADV, ADV). -/
theorem test_order_programs :
    instructionOrder .beforeReset [.reset, .busWr 0x8000 0x80, .busWr 0x8010 0x00, .busWr 0x8011 0x08, .timerAdvance 3,
      .uartReceive 0x0A, .timerAdvance 1, .busRd 0x8003] = true ∧
    instructionOrder .beforeReset [.reset, .timerAdvance 2, .busRd 0x8011, .busWr 0x8011 0x87, .timerAdvance 2,
      .busRd 0x8011, .busWr 0x8011 0x07, .busRd 0x8011] = true ∧
    instructionOrder .running [.busRd 0x8011, .timerAdvance 4, .timerAdvance 3, .busRd 0x8010] = true := by decide
/-- No `RX` among the accesses of an instruction, and at most one between those of two. -/
theorem test_order_receives : instructionOrder .running [.busRd 0x100, .uartReceive 0x61, .busRd 0x101] = false ∧
    instructionOrder .running [.timerAdvance 1, .uartReceive 0x61, .uartReceive 0x62, .busRd 0x100] = false := by decide
theorem test_order_reset : instructionOrder .beforeReset [.busRd 0x100] = false ∧
    instructionOrder .beforeReset [.reset, .reset] = false := by decide

/-! ### Witnesses: each statement's hypotheses can be met -/

theorem test_witness_LeafWordsRoundTrip : isStimulus (.memWr 0xFFFF 0xFF) = false ∧ isAttach (.memWr 0xFFFF 0xFF) = false ∧
    isStimulus .pinRd = false ∧ isAttach .pinRd = false := by decide
theorem test_witness_LeafTransactionsRoundTrip : (Instr.uartWrRxdata 0xFF).wellFormed cfgMoved = true ∧
    (Instr.memRd 0xFFFB).wellFormed cfgMoved = true ∧ (Instr.timerRdData).wellFormed cfgMoved = true ∧
    isStimulus .timerRdData = false ∧ isAttach .timerRdData = false := by decide
theorem test_witness_StimuliRoundTrip : isStimulus (.busWr 0xFFFF 0xFF) = true ∧ isStimulus (.uartReceive 0xFF) = true ∧
    isStimulus (.timerAdvance 0) = true := by decide
theorem test_witness_NamelessWordsRefused : (0b10010 : BitVec 5).extractLsb' 3 2 = 0b10 ∧
    (0b10010 : BitVec 5).getLsbD 1 = true ∧ (0b10111 : BitVec 5).extractLsb' 3 2 = 0b10 ∧
    (0b10111 : BitVec 5).getLsbD 1 = true ∧ 256 ≤ 256 ∧ (1 : Nat) ≠ 0 := by decide
theorem test_witness_RegisterOffsetsExact : cfgT.select 0x8003 = .uart 3 ∧ cfgMoved.select 0xFFFF = .uart 3 ∧
    cfgT.select 0x8010 = .timer 0 ∧ cfgMoved.select 0x0001 = .timer 0 ∧ cfgT.select 0x0000 = .pin ∧
    cfgT.select 0x8012 = .mem := by decide
theorem test_witness_OverlappingRangesRefused :
    let p : Params := { params [] 4 7 with timerBase := 0x8003 }
    (p.uartBase ≤ 0x8003 ∧ 0x8003 < p.uartBase + uartSpan ∧ p.timerBase ≤ 0x8003 ∧ 0x8003 < p.timerBase + timerSpan) ∧
    (cfgT.uartBase ≤ 0x8003 ∧ 0x8003 < cfgT.uartBase + uartSpan) := by decide
theorem test_witness_StepRunsDecoded : (s0.present (.bus ⟨0, 0x8003, 0⟩)).inputs = [.bus ⟨0, 0x8003, 0⟩] ∧
    decode (.bus ⟨0, 0x8003, 0⟩) = .ok (.busRd 0x8003) := ⟨rfl, rfl⟩
theorem test_witness_StepIdleOrUndecodable : s0.inputs = [] ∧
    (s0.present (.event ⟨0b11, 0⟩)).inputs = [.event ⟨0b11, 0⟩] ∧
    decode (.event ⟨0b11, 0⟩) = .error .noSuchEvent := ⟨rfl, rfl, rfl⟩
/-- The hypothesis of most statements about an operation after RESET, and of those about RESET. -/
theorem test_witness_attached : s0.attached = true ∧ sPre.attached = false ∧ State.reset.attached = true := by decide
theorem test_witness_PresentableRunsNeverStop : (∀ st ∈ (s0.present (.event ⟨0b10, 7⟩)).inputs, presentable st = true) ∧
    (s0.present (.event ⟨0b10, 7⟩)).attached = true := by decide
theorem test_witness_ConfigurationFixed : (∃ t, exec (.busWr 0x0100 0x5A) s0 = .next t) ∧ s0.attached = true ∧
    ∃ t, exec .reset sPre = .next t := ⟨⟨_, rfl⟩, rfl, ⟨_, rfl⟩⟩
theorem test_witness_RefusalConditions : (isAttach .reset = true ∧ s0.attached = true) ∧
    (isAttach (.memRd 0xFFFF) = false ∧ (Instr.memRd 0xFFFF).wellFormed sPre.cfg = true ∧ sPre.attached = false) ∧
    s0.cfg.isPlain 0x8003 = false ∧ (isAttach (.memRd 0x8004) ≠ s0.attached ∧ (Instr.memRd 0x8004).wellFormed s0.cfg = true) ∧
    (isAttach .reset ≠ sPre.attached ∧ Instr.reset.wellFormed sPre.cfg = true) := by decide
theorem test_witness_PinsAreNotState : s0.attached = true ∧ (sUart 1 2 3 4).attached = true ∧
    s0.cfg = (sUart 1 2 3 4).cfg := ⟨rfl, rfl, rfl⟩
theorem test_witness_PlainMemory : (0b11000 : BitVec 5).extractLsb' 2 3 = 0b110 ∧
    (0b11011 : BitVec 5).extractLsb' 2 3 = 0b110 ∧ s0.attached = true ∧ s0.cfg.select 0x0001 = .mem ∧
    s0.cfg.select 0xFFFF = .mem := by decide
theorem test_witness_ReadReturnsLatestWrite : s0.cfg.isPlain 0x7FFF = true ∧
    (∀ i ∈ ([.busWr 0x8000 0x03, .busWr 0x7FFE 0x01, .timerAdvance 3, .uartReceive 0x61] : List Instr),
      isStimulus i = true ∧ writesAddr 0x7FFF i = false) := by decide
theorem test_witness_UartControlWriteEffect : (0x83 : Byte).extractLsb' 0 2 = 0b11 ∧ (0x82 : Byte).extractLsb' 0 2 ≠ 0b11 := by
  decide
theorem test_witness_TransmitLaw : uartTxe s0.uart.status = true ∧
    (∀ i ∈ ([.busRd 0x8002, .busWr 0x8001 0x41, .busRd 0x8003, .uartWrTxdata 0x42] : List Instr),
      isReadOrTransmit s0.cfg i = true) := by decide
theorem test_witness_ReceiveLaw :
    (∀ i ∈ ([.busRd 0x8002, .busWr 0x8000 0x82, .timerAdvance 3] : List Instr),
      isStimulus i = true ∧ touchesReceive s0.cfg i = false) ∧
    uartRda s0.uart.status = false ∧
    (∀ i ∈ ([.busRd 0x8003, .busWr 0x8002 0xFE, .busWr 0x8000 0x03] : List Instr),
      isStimulus i = true ∧ setsRda s0.cfg i = false) := by decide
theorem test_witness_RdaIsHistory :
    (∀ i ∈ ([.uartReceive 0x61, .busRd 0x8003, .busWr 0x8000 0x03] : List Instr),
      isStimulus i = true ∧ isStatusWrite s0.cfg i = false) := by decide
theorem test_witness_StatusQuiescentKept : isStatusWrite s0.cfg (.busWr 0x8000 0x03) = false ∧ StatusQuiescent s0 ∧
    ∃ t, exec (.busWr 0x8000 0x03) s0 = .next t := ⟨rfl, ⟨rfl, rfl⟩, ⟨_, rfl⟩⟩
theorem test_witness_TimerOneCycle : PrescalerInRange (sTimer 0x05 0x07 2) ∧
    (sTimer 0x05 0x07 2).timer.prescaler ≠ 1 ∧ (sTimer 0x05 0x07 1).timer.prescaler = 1 ∧
    (sTimer 0x05 0x07 1).timer.data ≠ 0x00 ∧ (sTimer 0x00 0x07 1).timer.data = 0x00 := by
  simp only [PrescalerInRange]; decide
theorem test_witness_PrescalerInRange : PrescalerInRange s0 ∧ PrescalerInRange (sTimer 0x01 0x07 1) ∧
    PrescalerInRange (State.afterReset cfgSlow) ∧ ¬PrescalerInRange (sTimer 0x01 0x07 0) ∧
    ¬PrescalerInRange (sTimer 0x01 0x07 5) := by
  simp only [PrescalerInRange]; decide
theorem test_witness_UnderflowPeriods : PrescalerInRange (sTimer 0x02 0x07 3) ∧
    timerId (sTimer 0x02 0x07 3).timer.control = false := by
  simp only [PrescalerInRange]; decide
theorem test_witness_TwoPeriodsSetTheFlag : (sTimer 0x01 0x07 4).attached = true ∧ (sTimer 0x01 0x07 4).timer.data = 1 ∧
    (sTimer 0x01 0x07 4).timer.prescaler = BitVec.ofNat 7 (sTimer 0x01 0x07 4).cfg.prescale ∧
    timerIf (sTimer 0x01 0x07 4).timer.control = false := by decide
/-- Both directions of the flag law: an advance that raises `IF`, and a control write that lowers it. -/
theorem test_witness_TimerFlagLaw : (PrescalerInRange (sTimer 0x00 0x07 1) ∧
      (after (.timerAdvance 1) (sTimer 0x00 0x07 1)).map (timerIf ·.timer.control) = some true) ∧
    (PrescalerInRange (sTimer 0x00 0x87 1) ∧
      (after (.busWr 0x8011 0x00) (sTimer 0x00 0x87 1)).map (timerIf ·.timer.control) = some false) := by
  simp only [PrescalerInRange]; decide
theorem test_witness_PrescalerResetLaw : (0x08 : Byte).getLsbD 3 = true ∧ s0.attached = true := by decide
theorem test_witness_Invariants : ControlNibbleFixed s0 ∧ BaudNotReset s0 ∧ MemoryCanonical s0 ∧ step s0 = .next s0 ∧
    (stepped (s0.present (.bus ⟨1, 0x0100, 0x5A⟩))).isSome = true :=
  ⟨rfl, by unfold BaudNotReset; decide, rfl, rfl, by decide⟩
theorem test_witness_ReportingEntersNoTrap : uartRie (sUart 0x80 0 2 0).uart.control = true ∧
    PrescalerInRange (sTimer 0x01 0x07 4) ∧ timerId (sTimer 0x01 0x07 4).timer.control = false := by
  simp only [PrescalerInRange]; decide
theorem test_witness_BusReadDispatch : selectedRead 0x8002 (s0.cfg.select 0x8002) ≠ .uartRdRxdata ∧
    selectedRead 0x8003 (s0.cfg.select 0x8003) = .uartRdRxdata := by decide
theorem test_witness_BusWriteDispatch : s0.cfg.select 0x8003 ≠ .mem ∧ s0.cfg.select 0x8003 ≠ .pin ∧
    (∀ off, s0.cfg.select 0x8004 ≠ .uart off) ∧ (∀ off, s0.cfg.select 0x8012 ≠ .timer off) := by
  refine ⟨by decide, by decide, fun off => ?_, fun off => ?_⟩
  · rw [show s0.cfg.select 0x8004 = .mem by decide]; exact nofun
  · rw [show s0.cfg.select 0x8012 = .mem by decide]; exact nofun
theorem test_witness_ReadSideEffects : (0x8002 : Addr).toNat ≠ s0.cfg.uartBase + 3 ∧
    (0x8003 : Addr).toNat = s0.cfg.uartBase + 3 ∧ (sUart 0 0 0x03 0x61).uart.status.getLsbD 0 = true := by decide
theorem test_witness_BusIsolation : (∃ t, exec (.busWr 0x8003 0x7E) s0 = .next t) ∧
    (∃ t, exec (.busRd 0x8004) s0 = .next t) ∧ s0.cfg.isPlain 0x8004 = true ∧
    s0.cfg.isPlain 0x8003 = false ∧ s0.cfg.inUart 0x8003 = true ∧ s0.cfg.inTimer 0x8011 = true :=
  ⟨⟨_, rfl⟩, ⟨_, rfl⟩, by decide, by decide, by decide, by decide⟩
/-- The clause of the sentinel, for a read and for a write. -/
theorem test_witness_BusIsolation_sentinel : (∃ t, exec (.busRd 0) s0 = .next t) ∧
    (∃ t, exec (.busWr 0 0x01) s0 = .next t) ∧ s0.cfg.isPlain 0 = false := ⟨⟨_, rfl⟩, ⟨_, rfl⟩, by decide⟩
/-- Two states that differ in the shadowed bytes only, at the two ends of the serial range and at address 0. -/
theorem test_witness_ShadowedBytesUnobservable :
    let s : State := { s0 with mem := [(0x0000, 0xEE), (0x8000, 0x11), (0x8003, 0x22)] }
    SameButShadowed s s0 ∧ s ≠ s0 ∧ s.attached = true := by
  refine ⟨⟨rfl, rfl, rfl, rfl, rfl, rfl, rfl, rfl, fun a ha => ?_⟩, by decide, rfl⟩
  have h : a.toNat ≠ 0x0000 ∧ a.toNat ≠ 0x8000 ∧ a.toNat ≠ 0x8003 := by
    simp only [Config.isPlain, Config.inUart, Config.inTimer, Bool.and_eq_true, Bool.not_eq_true', decide_eq_true_eq,
      decide_eq_false_iff_not] at ha
    obtain ⟨⟨h1, h2⟩, h3⟩ := ha
    have hu : s0.cfg.uartBase = 0x8000 := rfl
    have h0 : a.toNat ≠ 0 := fun h => h1 (BitVec.eq_of_toNat_eq h)
    simp only [hu, uartSpan] at h2
    omega
  simp [State.memRead, cellsGet, cellsLookup, h.1, h.2.1, h.2.2, s0, State.afterReset]
/-- Two states that differ in every storage-only bit and in `IF`. -/
theorem test_witness_StorageBitsHaveNoBehaviour :
    SameForEvents s0 { s0 with uart := ⟨0x7C, 0x11, 0xFF, 0x22⟩, timer := { s0.timer with control := 0x7F }, mem := [(1, 0x01)] } :=
  ⟨rfl, rfl, rfl, rfl, rfl, rfl, rfl, rfl⟩
theorem test_witness_stimuli : ∀ i ∈ ([.busRd 0x8003, .busWr 0x0000 0x01, .uartReceive 0xFF, .timerAdvance 1028] : List Instr),
    isStimulus i = true := by decide
theorem test_witness_EventsOfOperations : (∃ t, exec (.busWr 0x8001 0x41) s0 = .next t) ∧
    leafOf s0.cfg (.busWr 0x8001 0x41) = .uartWrTxdata 0x41 ∧ (∃ t, exec (.timerAdvance 4) s0 = .next t) ∧
    s0.timer.control.getLsbD 6 = true := ⟨⟨_, rfl⟩, by decide, ⟨_, rfl⟩, by decide⟩
theorem test_witness_DispatcherAndReadsFrame : (∃ t, exec .timerRdControl s0 = .next t) ∧
    (∃ t, exec (.memRd 0x0001) s0 = .next t) ∧ (∃ t, exec (.memWr 0xFFFF 0x12) s0 = .next t) ∧
    (∃ t, exec (.traceWr 0xFF) s0 = .next t) := ⟨⟨_, rfl⟩, ⟨_, rfl⟩, ⟨_, rfl⟩, ⟨_, rfl⟩⟩
theorem test_witness_SerialOperationsFrame : (∃ t, exec .uartRdRxdata s0 = .next t) ∧
    (∃ t, exec (.uartWrControl 0x82) s0 = .next t) ∧ (0x82 : Byte).extractLsb' 0 2 ≠ 0b11 ∧
    (∃ t, exec (.uartWrTxdata 0x41) s0 = .next t) ∧ (∃ t, exec (.uartWrStatus 0xFF) s0 = .next t) ∧
    (∃ t, exec (.uartWrRxdata 0x7E) s0 = .next t) ∧ (∃ t, exec (.uartReceive 0x61) s0 = .next t) ∧
    ∃ t, exec .uartAttach sPre = .next t :=
  ⟨⟨_, rfl⟩, ⟨_, rfl⟩, by decide, ⟨_, rfl⟩, ⟨_, rfl⟩, ⟨_, rfl⟩, ⟨_, rfl⟩, ⟨_, rfl⟩⟩
theorem test_witness_TimerOperationsFrame : (∃ t, exec (.timerWrData 0xAB) s0 = .next t) ∧
    (∃ t, exec (.timerWrControl 0xF7) s0 = .next t) ∧ (0xF7 : Byte).getLsbD 3 = false ∧
    (∃ t, exec (.timerAdvance 3) s0 = .next t) ∧ ∃ t, exec .timerAttach sPre = .next t :=
  ⟨⟨_, rfl⟩, ⟨_, rfl⟩, by decide, ⟨_, rfl⟩, ⟨_, rfl⟩⟩
/-- Each clause of RegisterWriters has an operation that changes the register it speaks of. -/
theorem test_witness_RegisterWriters :
    (after (.busWr 0x8001 0x41) s0).map (decide <| ·.uart.txData ≠ s0.uart.txData) = some true ∧
    (after (.uartReceive 0x61) s0).map (decide <| ·.uart.rxData ≠ s0.uart.rxData) = some true ∧
    (after (.busWr 0x8010 0x10) s0).map (decide <| ·.timer.data ≠ s0.timer.data) = some true ∧
    (after (.busWr 0x8011 0x08) (sTimer 0 7 1)).map (decide <| ·.timer.prescaler ≠ 1) = some true ∧
    (after (.timerAdvance 1) s0).map (decide <| ·.cycles ≠ s0.cycles) = some true ∧ isAttach (.timerAdvance 1) = false := by
  decide

end Sys2Proof.Tests
end

