-- ==== Sys2Proof/Proofs/State.lean ====
section
/-!
PROOFS. The two operations of the sentinel address (spec/40_bus_dispatcher.md rules R102 and R103), and the statement that
neither pin is state (spec/10_state.md rule R32).
-/

namespace Sys2Proof.Machine

/-! ### What the two operations answer after RESET, and what they write -/

theorem exec_pinRd_of_attached {s : State} (ha : s.attached = true) : exec .pinRd s = .next (pinRead s) :=
  exec_of_performs ha .pinRd

theorem exec_traceWr_of_attached {s : State} (d : Byte) (ha : s.attached = true) :
    exec (.traceWr d) s = .next (traceWrite d s) :=
  exec_of_performs ha (.traceWr d)

@[simp] theorem pinRead_response (s : State) : (pinRead s).response = some s.cfg.pinReadValue := rfl

@[simp] theorem traceWrite_events (d : Byte) (s : State) :
    (traceWrite d s).events = s.events ++ [.trace s.cycles (tracedBit d)] := rfl

/-- The two outputs of R7 are the only fields a trace write touches; the bit it samples goes to the log alone. -/
theorem traceWrite_eq_outputs_only (d : Byte) (s : State) :
    traceWrite d s =
      { s with response := (traceWrite d s).response, events := (traceWrite d s).events } := rfl

/-- The byte read at the pin depends on the configuration alone. -/
theorem pinRead_response_congr {s s' : State} (hc : s.cfg = s'.cfg) :
    (pinRead s).response = (pinRead s').response := by
  rw [pinRead_response, pinRead_response, hc]

/-! ### Neither pin is state -/

/-- Settles O22: the read answers the constant of the configuration, and the trace write touches the two outputs only. -/
theorem pinsAreNotState : Obligations.PinsAreNotState := by
  unfold Obligations.PinsAreNotState
  constructor
  · intro s s' ha ha' hc
    exact ⟨pinRead s, pinRead s', exec_pinRd_of_attached ha, exec_pinRd_of_attached ha', pinRead_response_congr hc,
      pinRead_response s⟩
  · intro s d ha
    exact ⟨traceWrite d s, _, exec_traceWr_of_attached d ha, traceWrite_events d s, traceWrite_eq_outputs_only d s⟩

end Sys2Proof.Machine
end

section
/-!
PROOFS. The address decoder (spec/30_encoding.md rules R81 and R82): which addresses each device select names, and what the
register offset decides.
-/

namespace Sys2Proof

/-! ### The device selects, exactly (R81, R82) -/

/-- The numbers at some `w`-bit offset from a base are the `2 ^ w` numbers that start at the base. -/
theorem exists_offset_iff (w base n : Nat) :
    (∃ off : BitVec w, n = base + off.toNat) ↔ base ≤ n ∧ n < base + 2 ^ w := by
  constructor
  · rintro ⟨off, rfl⟩
    have := off.isLt
    omega
  · rintro ⟨hlo, hhi⟩
    refine ⟨BitVec.ofNatLT (n - base) (by omega), ?_⟩
    rw [BitVec.toNat_ofNatLT]
    omega

/-- The one address of the 16-bit space whose number is `n`. -/
theorem addr_eq_ofNat {a : Addr} {n : Nat} (h : a.toNat = n) : a = BitVec.ofNat 16 n := by
  rw [← h, BitVec.ofNat_toNat, BitVec.setWidth_eq]

/-- An address other than the sentinel has a number other than 0. -/
theorem toNat_ne_zero_of_ne_pinAddr {a : Addr} (h : a ≠ pinAddr) : a.toNat ≠ 0 :=
  fun h0 => h (addr_eq_ofNat h0)

theorem Config.select_eq_uart (c : Config) (a : Addr) (off : BitVec 2) :
    c.select a = .uart off ↔ a ≠ pinAddr ∧ a.toNat = c.uartBase + off.toNat := by
  constructor
  · intro h
    exact (c.select_uart a off h).symm
  · rintro ⟨hpin, hoff⟩
    have hat := c.select_uart_at off.toNat off.isLt (hoff ▸ toNat_ne_zero_of_ne_pinAddr hpin)
    rwa [← addr_eq_ofNat hoff, BitVec.ofNat_toNat, BitVec.setWidth_eq] at hat

theorem Config.select_eq_timer (c : Config) (a : Addr) (off : BitVec 1) :
    c.select a = .timer off ↔ a ≠ pinAddr ∧ a.toNat = c.timerBase + off.toNat := by
  constructor
  · intro h
    exact (c.select_timer a off h).symm
  · rintro ⟨hpin, hoff⟩
    have hat := c.select_timer_at off.toNat off.isLt (hoff ▸ toNat_ne_zero_of_ne_pinAddr hpin)
    rwa [← addr_eq_ofNat hoff, BitVec.ofNat_toNat, BitVec.setWidth_eq] at hat

/-- The serial select names the serial range, the sentinel apart. -/
theorem Config.exists_select_eq_uart (c : Config) (a : Addr) :
    (∃ off, c.select a = .uart off) ↔ a ≠ pinAddr ∧ c.uartBase ≤ a.toNat ∧ a.toNat < c.uartBase + uartSpan := by
  simp only [c.select_eq_uart, exists_and_left, exists_offset_iff]
  rfl

/-- The timer select names the timer range, the sentinel apart. -/
theorem Config.exists_select_eq_timer (c : Config) (a : Addr) :
    (∃ off, c.select a = .timer off) ↔ a ≠ pinAddr ∧ c.timerBase ≤ a.toNat ∧ a.toNat < c.timerBase + timerSpan := by
  simp only [c.select_eq_timer, exists_and_left, exists_offset_iff]
  rfl

theorem Config.isPlain_iff (c : Config) (a : Addr) :
    c.isPlain a = true ↔ a ≠ pinAddr ∧ ¬(c.uartBase ≤ a.toNat ∧ a.toNat < c.uartBase + uartSpan) ∧
      ¬(c.timerBase ≤ a.toNat ∧ a.toNat < c.timerBase + timerSpan) := by
  simp only [Config.isPlain, Config.inUart, Config.inTimer, Bool.and_eq_true, Bool.not_eq_true', decide_eq_true_eq,
    decide_eq_false_iff_not, and_assoc]

/-- No number lies in both device ranges (R6 (b)). -/
theorem Config.not_in_both_ranges (c : Config) (n : Nat) :
    ¬((c.uartBase ≤ n ∧ n < c.uartBase + uartSpan) ∧ (c.timerBase ≤ n ∧ n < c.timerBase + timerSpan)) := by
  have := c.ranges_disjoint
  omega

namespace Machine

/-- Settles O8: each select names the range R81 tests for it, and the two ranges are disjoint, so the timer's range needs no
word about the serial one. -/
theorem addressDecoderPriority : Obligations.AddressDecoderPriority := by
  unfold Obligations.AddressDecoderPriority
  intro c a
  have hdisj := c.not_in_both_ranges a.toNat
  refine ⟨c.select_eq_pin a, c.exists_select_eq_uart a, ?timer, ?mem, c.uart_fits, c.timer_fits, hdisj⟩
  case timer =>
    rw [c.exists_select_eq_timer]
    exact and_congr_right fun _ => ⟨fun ht => ⟨fun hu => hdisj ⟨hu, ht⟩, ht⟩, And.right⟩
  case mem => rw [c.select_eq_mem, c.isPlain_iff]

/-! ### What the offset decides (R82, R83) -/

/-- The two low bits of the local word are the offset of the select. -/
theorem stage1_bits_off (c : Config) (t : Transaction) :
    (c.stage1 t).bits.extractLsb' 0 2 = (c.select t.addr).off :=
  BitVec.extractLsb'_append_eq_right

theorem select_off_eq_zero {sel : Select} (h : sel = .pin ∨ sel = .mem) : sel.off = 0 := by
  rcases h with rfl | rfl <;> rfl

/-- What any transaction decodes to: the read or the write its select names, by `rw` (R85). -/
theorem decodeBus_eq (c : Config) (t : Transaction) :
    c.decodeBus t = .ok (if t.rw = 0 then selectedRead t.addr (c.select t.addr)
      else selectedWrite t.addr t.data (c.select t.addr)) := by
  obtain ⟨rw, a, d⟩ := t
  rcases offset_timer_cases rw with rfl | rfl
  · exact decodeBus_read c a d
  · exact decodeBus_write c a d

/-- Only the plain memory read takes the address as an operand (R86). -/
theorem selectedRead_congr_addr (a a' : Addr) {sel : Select} (h : sel ≠ .mem) :
    selectedRead a sel = selectedRead a' sel := by
  cases sel with
  | mem => exact absurd rfl h
  | pin | uart | timer => rfl

/-- Only the plain memory write takes the address as an operand (R86). -/
theorem selectedWrite_congr_addr (a a' : Addr) (d : Byte) {sel : Select} (h : sel ≠ .mem) :
    selectedWrite a d sel = selectedWrite a' d sel := by
  cases sel with
  | mem => exact absurd rfl h
  | pin | uart | timer => rfl

/-- Outside plain memory the select, `rw` and the byte decide the operation, whatever the address and the configuration. -/
theorem decodeBus_congr {c c' : Config} {t t' : Transaction} {sel : Select} (hmem : sel ≠ .mem)
    (hsel : c.select t.addr = sel) (hsel' : c'.select t'.addr = sel) (hrw : t.rw = t'.rw) (hdata : t.data = t'.data) :
    c.decodeBus t = c'.decodeBus t' := by
  rw [decodeBus_eq, decodeBus_eq, hsel, hsel', hrw, hdata, selectedRead_congr_addr t.addr t'.addr hmem,
    selectedWrite_congr_addr t.addr t'.addr _ hmem]

/-- Settles O9: the two device selects are exact, the other two carry offset 0, and a device operation is fixed by its
select. -/
theorem registerOffsetsExact : Obligations.RegisterOffsetsExact := by
  unfold Obligations.RegisterOffsetsExact
  refine ⟨?uartOffset, ?timerOffset, ?noOffset, ?uartOperation, ?timerOperation⟩
  case uartOffset =>
    intro c a off h
    obtain ⟨-, hoff⟩ := (c.select_eq_uart a off).1 h
    rw [hoff, Nat.add_comm]
  case timerOffset =>
    intro c a off h
    obtain ⟨-, hoff⟩ := (c.select_eq_timer a off).1 h
    rw [hoff, Nat.add_comm]
  case noOffset =>
    intro c t h
    exact ⟨(stage1_bits_off c t).trans (select_off_eq_zero h), rfl⟩
  case uartOperation =>
    intro c c' t t' off h h' hrw hdata
    exact decodeBus_congr Select.noConfusion h h' hrw hdata
  case timerOperation =>
    intro c c' t t' off h h' hrw hdata
    exact decodeBus_congr Select.noConfusion h h' hrw hdata

end Machine

end Sys2Proof
end

section
/-!
PROOFS. Overlapping device ranges (spec/40_bus_dispatcher.md rule R109): the record is ill-formed, and no configuration is
made from it.
-/

namespace Sys2Proof

/-- The parameter records that give no block are the ill-formed ones (R6, R181). -/
theorem Config.ofParams_eq_none_iff (p : Params) : Config.ofParams p = none ↔ p.wellFormed = false := by
  rw [Config.ofParams, ← Bool.not_eq_true]
  split <;> simp [*]

/-- A number in both claimed ranges makes the record ill-formed: a well-formed one would be a configuration with an address
of two owners. -/
theorem Params.wellFormed_eq_false_of_overlap {p : Params} {n : Nat}
    (hu : p.uartBase ≤ n ∧ n < p.uartBase + uartSpan) (ht : p.timerBase ≤ n ∧ n < p.timerBase + timerSpan) :
    p.wellFormed = false := by
  rw [← Bool.not_eq_true]
  intro hwf
  exact Config.not_in_both_ranges { toParams := p, ok := hwf } n ⟨hu, ht⟩

namespace Machine

/-- Settles O10: an overlap is ill-formed and so refused, and the ranges of a configuration are disjoint. -/
theorem overlappingRangesRefused : Obligations.OverlappingRangesRefused := by
  unfold Obligations.OverlappingRangesRefused
  refine ⟨?refused, ?oneOwner⟩
  case refused =>
    intro p a hul huh htl hth
    have hwf : p.wellFormed = false := Params.wellFormed_eq_false_of_overlap ⟨hul, huh⟩ ⟨htl, hth⟩
    exact ⟨hwf, (Config.ofParams_eq_none_iff p).2 hwf⟩
  case oneOwner =>
    intro c a hul huh ht
    exact c.not_in_both_ranges a ⟨⟨hul, huh⟩, ht⟩

end Machine

end Sys2Proof
end

section
/-!
PROOFS. The block has no failure (spec/60_exceptions.md rule R180): what each of the four stimuli leads to after RESET, and
the byte that every bus read answers.
-/

namespace Sys2Proof.Machine

/-! ### What the four stimuli answer after RESET -/

theorem exec_busRd_of_attached {s : State} (a : Addr) (ha : s.attached = true) :
    exec (.busRd a) s = .next (busRead a s) :=
  whenAttached_true ha

theorem exec_busWr_of_attached {s : State} (a : Addr) (d : Byte) (ha : s.attached = true) :
    exec (.busWr a d) s = .next (busWrite a d s) :=
  whenAttached_true ha

theorem exec_uartReceive_of_attached {s : State} (b : Byte) (ha : s.attached = true) :
    exec (.uartReceive b) s = .next (uartReceived b s) :=
  exec_of_performs ha (.uartReceive b)

theorem exec_timerAdvance_of_attached {s : State} (n : Nat) (ha : s.attached = true) :
    exec (.timerAdvance n) s = .next (timerAdvanced n s) :=
  exec_of_performs ha (.timerAdvance n)

/-- There is no unmapped address: whichever of the eight reads the select names, it responds with a byte. -/
theorem exists_busRead_response (a : Addr) (s : State) : ∃ v, (busRead a s).response = some v := by
  rcases busRead_cases a s with ⟨-, h⟩ | ⟨-, h⟩ | ⟨-, h⟩ | ⟨-, h⟩ | ⟨-, h⟩ | ⟨-, h⟩ | ⟨-, h⟩ | ⟨-, h⟩ <;>
    exact ⟨_, congrArg State.response h⟩

/-! ### No operation fails -/

/-- Settles O13: the block has no fault to raise, RESET has opened the guard of each stimulus, and a read finds an owner at
every address. -/
theorem noOperationFails : Obligations.NoOperationFails := by
  unfold Obligations.NoOperationFails
  refine ⟨?noFault, fun s ha => ⟨?read, ?write, ?receive, ?advance⟩⟩
  case noFault =>
    intro _ _ r
    cases r
  case read =>
    intro a
    obtain ⟨v, hv⟩ := exists_busRead_response a s
    exact ⟨busRead a s, v, exec_busRd_of_attached a ha, hv⟩
  case write => exact fun a d => ⟨busWrite a d s, exec_busWr_of_attached a d ha⟩
  case receive => exact fun b => ⟨uartReceived b s, exec_uartReceive_of_attached b ha⟩
  case advance => exact fun n => ⟨timerAdvanced n s, exec_timerAdvance_of_attached n ha⟩

end Sys2Proof.Machine
end

section
/-!
PROOFS. Encoding (spec/30_encoding.md rules R80 to R88): the decoder reads back what the encoder writes, finds an operation
for every transaction, and refuses the words that name none.
-/

namespace Sys2Proof

/-! ### Words and the fields they are packed from (R80, R83) -/

/-- Each bit of the word is a bit of the field that lies over it. -/
theorem Transaction.getLsbD_toWord (t : Transaction) (i : Nat) :
    t.toWord.getLsbD i =
      if i < 8 then t.data.getLsbD i else if i < 24 then t.addr.getLsbD (i - 8) else t.rw.getLsbD (i - 24) := by
  show (t.rw ++ t.addr ++ t.data : BitVec (1 + 16 + 8)).getLsbD i = _
  rw [BitVec.getLsbD_append, BitVec.getLsbD_append]
  have h : i - 8 < 16 ↔ i < 24 := by omega
  simp only [h, Nat.sub_sub]

theorem Transaction.ofWord_toWord (t : Transaction) : Transaction.ofWord t.toWord = t := by
  have hrw : t.toWord.extractLsb' 24 1 = t.rw := by
    refine BitVec.eq_of_getLsbD_eq fun i hi => ?_
    rw [BitVec.getLsbD_extractLsb', Transaction.getLsbD_toWord]
    simp [show i = 0 by omega]
  have haddr : t.toWord.extractLsb' 8 16 = t.addr := by
    refine BitVec.eq_of_getLsbD_eq fun i hi => ?_
    rw [BitVec.getLsbD_extractLsb', Transaction.getLsbD_toWord]
    simp [hi, show 8 + i < 24 by omega]
  have hdata : t.toWord.extractLsb' 0 8 = t.data := by
    refine BitVec.eq_of_getLsbD_eq fun i hi => ?_
    rw [BitVec.getLsbD_extractLsb', Transaction.getLsbD_toWord]
    simp [hi]
  rw [Transaction.ofWord, hrw, haddr, hdata]

theorem Transaction.toWord_ofWord (w : BitVec 25) : (Transaction.ofWord w).toWord = w := by
  refine BitVec.eq_of_getLsbD_eq fun i hi => ?_
  rw [Transaction.getLsbD_toWord]
  simp only [Transaction.ofWord, BitVec.getLsbD_extractLsb']
  by_cases h8 : i < 8
  · simp only [h8, if_true, decide_true, Bool.true_and, Nat.zero_add]
  · by_cases h24 : i < 24
    · simp only [h8, h24, if_true, if_false, show i - 8 < 16 by omega, show 8 + (i - 8) = i by omega, decide_true,
        Bool.true_and]
    · simp only [h8, h24, if_false, show i - 24 < 1 by omega, show 24 + (i - 24) = i by omega, decide_true,
        Bool.true_and]

namespace Machine

/-- Settles O5: the three fields tile the word. -/
theorem transactionWordRoundTrip : Obligations.TransactionWordRoundTrip := by
  unfold Obligations.TransactionWordRoundTrip
  exact ⟨Transaction.ofWord_toWord, Transaction.toWord_ofWord⟩

/-- Settles O1: the decoder evaluates each word to its operation. -/
theorem specWordsDecode : Obligations.SpecWordsDecode := by
  unfold Obligations.SpecWordsDecode
  exact ⟨rfl, rfl, rfl, rfl, rfl, rfl, rfl, rfl, rfl, rfl, rfl, rfl, rfl⟩

/-- Settles O2: what is neither a stimulus of a running block nor an attach is a leaf, and each leaf has a word. -/
theorem leafWordsRoundTrip : Obligations.LeafWordsRoundTrip := by
  unfold Obligations.LeafWordsRoundTrip
  intro i hs ha
  cases i with
  | busRd | busWr | uartReceive | timerAdvance => cases hs
  | reset | uartAttach | timerAttach => cases ha
  | _ => exact ⟨_, rfl, rfl⟩

/-! ### Transactions (R81, R85, R88) -/

/-- The read and the write of a serial register decode from the transaction at base plus offset. -/
theorem decodeBus_uart_at (c : Config) (k : Nat) (d : Byte) (hk : k < 4) (h0 : c.uartBase + k ≠ 0) :
    c.decodeBus ⟨0, BitVec.ofNat 16 (c.uartBase + k), d⟩ = .ok (selectedRead 0 (.uart (BitVec.ofNat 2 k))) ∧
    c.decodeBus ⟨1, BitVec.ofNat 16 (c.uartBase + k), d⟩ = .ok (selectedWrite 0 d (.uart (BitVec.ofNat 2 k))) := by
  rw [decodeBus_read, decodeBus_write, c.select_uart_at k hk h0]
  exact ⟨rfl, rfl⟩

/-- The read and the write of a timer register decode from the transaction at base plus offset. -/
theorem decodeBus_timer_at (c : Config) (k : Nat) (d : Byte) (hk : k < 2) (h0 : c.timerBase + k ≠ 0) :
    c.decodeBus ⟨0, BitVec.ofNat 16 (c.timerBase + k), d⟩ = .ok (selectedRead 0 (.timer (BitVec.ofNat 1 k))) ∧
    c.decodeBus ⟨1, BitVec.ofNat 16 (c.timerBase + k), d⟩ = .ok (selectedWrite 0 d (.timer (BitVec.ofNat 1 k))) := by
  rw [decodeBus_read, decodeBus_write, c.select_timer_at k hk h0]
  exact ⟨rfl, rfl⟩

/-- The read and the write of plain memory decode from the transaction at their address. -/
theorem decodeBus_plain (c : Config) (a : Addr) (d : Byte) (ha : c.isPlain a = true) :
    c.decodeBus ⟨0, a, d⟩ = .ok (.memRd a) ∧ c.decodeBus ⟨1, a, d⟩ = .ok (.memWr a d) := by
  rw [decodeBus_read, decodeBus_write, (c.select_eq_mem a).2 ha]
  exact ⟨rfl, rfl⟩

/-- The two operations of the sentinel decode from the transaction at its address. -/
theorem decodeBus_pin (c : Config) (d : Byte) :
    c.decodeBus ⟨0, pinAddr, d⟩ = .ok .pinRd ∧ c.decodeBus ⟨1, pinAddr, d⟩ = .ok (.traceWr d) := by
  rw [decodeBus_read, decodeBus_write, (c.select_eq_pin pinAddr).2 rfl]
  exact ⟨rfl, rfl⟩

/-- Settles O3: the encoder puts each leaf at an address whose select is the leaf's own. The register at offset 0 of a device
has such an address because a well-formed operation is not the one the sentinel shadows. -/
theorem leafTransactionsRoundTrip : Obligations.LeafTransactionsRoundTrip := by
  unfold Obligations.LeafTransactionsRoundTrip
  intro c i hwf hs ha
  cases i with
  | busRd | busWr | uartReceive | timerAdvance => cases hs
  | reset | uartAttach | timerAttach => cases ha
  | pinRd => exact ⟨_, rfl, (decodeBus_pin c 0).1⟩
  | traceWr d => exact ⟨_, rfl, (decodeBus_pin c d).2⟩
  | uartRdControl => exact ⟨_, rfl, (decodeBus_uart_at c 0 0 (by omega) (of_decide_eq_true hwf)).1⟩
  | uartRdTxdata => exact ⟨_, rfl, (decodeBus_uart_at c 1 0 (by omega) (by omega)).1⟩
  | uartRdStatus => exact ⟨_, rfl, (decodeBus_uart_at c 2 0 (by omega) (by omega)).1⟩
  | uartRdRxdata => exact ⟨_, rfl, (decodeBus_uart_at c 3 0 (by omega) (by omega)).1⟩
  | uartWrControl d => exact ⟨_, rfl, (decodeBus_uart_at c 0 d (by omega) (of_decide_eq_true hwf)).2⟩
  | uartWrTxdata d => exact ⟨_, rfl, (decodeBus_uart_at c 1 d (by omega) (by omega)).2⟩
  | uartWrStatus d => exact ⟨_, rfl, (decodeBus_uart_at c 2 d (by omega) (by omega)).2⟩
  | uartWrRxdata d => exact ⟨_, rfl, (decodeBus_uart_at c 3 d (by omega) (by omega)).2⟩
  | timerRdData => exact ⟨_, rfl, (decodeBus_timer_at c 0 0 (by omega) (of_decide_eq_true hwf)).1⟩
  | timerRdControl => exact ⟨_, rfl, (decodeBus_timer_at c 1 0 (by omega) (by omega)).1⟩
  | timerWrData d => exact ⟨_, rfl, (decodeBus_timer_at c 0 d (by omega) (of_decide_eq_true hwf)).2⟩
  | timerWrControl d => exact ⟨_, rfl, (decodeBus_timer_at c 1 d (by omega) (by omega)).2⟩
  | memRd a => exact ⟨_, rfl, (decodeBus_plain c a 0 hwf).1⟩
  | memWr a d => exact ⟨_, rfl, (decodeBus_plain c a d hwf).2⟩

/-- A device based at the sentinel's address does not have its register at offset 0 selected (R108 (c)). -/
theorem uartBase_ne_zero_of_select {c : Config} {a : Addr} (h : c.select a = .uart 0) : c.uartBase ≠ 0 := by
  obtain ⟨hpin, hoff⟩ := (c.select_eq_uart a 0).1 h
  exact fun h0 => toNat_ne_zero_of_ne_pinAddr hpin (hoff.trans h0)

theorem timerBase_ne_zero_of_select {c : Config} {a : Addr} (h : c.select a = .timer 0) : c.timerBase ≠ 0 := by
  obtain ⟨hpin, hoff⟩ := (c.select_eq_timer a 0).1 h
  exact fun h0 => toNat_ne_zero_of_ne_pinAddr hpin (hoff.trans h0)

/-- What a select hands over to is well-formed (R88). -/
theorem selected_wellFormed (c : Config) (a : Addr) (d : Byte) :
    (selectedRead a (c.select a)).wellFormed c = true ∧ (selectedWrite a d (c.select a)).wellFormed c = true := by
  cases h : c.select a with
  | pin => exact ⟨rfl, rfl⟩
  | uart off =>
    rcases offset_uart_cases off with rfl | rfl | rfl | rfl
    · have h0 := decide_eq_true (uartBase_ne_zero_of_select h)
      exact ⟨h0, h0⟩
    all_goals exact ⟨rfl, rfl⟩
  | timer off =>
    rcases offset_timer_cases off with rfl | rfl
    · have h0 := decide_eq_true (timerBase_ne_zero_of_select h)
      exact ⟨h0, h0⟩
    · exact ⟨rfl, rfl⟩
  | mem =>
    have hp := (c.select_eq_mem a).1 h
    exact ⟨hp, hp⟩

/-- Settles O6: the two decode stages follow the select, and what a select hands over to is well-formed. -/
theorem everyTransactionDecodes : Obligations.EveryTransactionDecodes := by
  unfold Obligations.EveryTransactionDecodes
  intro c a d
  exact ⟨decodeBus_read c a d, decodeBus_write c a d, selected_wellFormed c a d⟩

/-! ### Stimuli (R84) -/

/-- Settles O4: `RD` and `WR` carry their fields, `RX` a byte and `ADV` its count. -/
theorem stimuliRoundTrip : Obligations.StimuliRoundTrip := by
  unfold Obligations.StimuliRoundTrip
  intro c i hi
  cases i with
  | busRd | busWr | timerAdvance | reset => rfl
  | uartReceive b => simp [encode, decode, decodeEvent, b.isLt]
  | _ => rcases hi with hi | hi <;> cases hi

/-- The local words with select `TIMER` and bit 1 of the offset set (R87). -/
theorem timer_word_off_high (b : BitVec 5) (hsel : b.extractLsb' 3 2 = 0b10) (hoff : b.getLsbD 1 = true) :
    b = 0b10010 ∨ b = 0b10011 ∨ b = 0b10110 ∨ b = 0b10111 := by
  revert b; decide

/-- Settles O7: the four timer words without a register, the fourth event code, and the operands no event has. -/
theorem namelessWordsRefused : Obligations.NamelessWordsRefused := by
  unfold Obligations.NamelessWordsRefused
  refine ⟨?timerWords, fun n => rfl, ?wideByte, ?strayReset⟩
  case timerWords =>
    rintro ⟨b, a, d⟩ hsel hoff
    rcases timer_word_off_high b hsel hoff with rfl | rfl | rfl | rfl <;> rfl
  case wideByte => exact fun n hn => if_neg (Nat.not_lt.2 hn)
  case strayReset => exact fun n hn => if_neg hn

end Machine

end Sys2Proof
end

section
/-!
PROOFS. The effect of an operation after RESET, field by field: each field of the next state as a function of the operation
and of what that operation reads. `performs_eq_effect` and `exec_eq_effect` tie it to the model, and the statements about
what an operation changes and leaves go through it.
-/

namespace Sys2Proof.Machine

/-! ### The fields after an operation -/

/-- The serial registers after a leaf operation (R124 to R129). -/
def uartAfter (u : Uart) : Instr → Uart
  | .uartRdRxdata => { u with status := clearRda u.status }
  | .uartWrControl d =>
    if isMasterReset d then { u with status := masterResetStatus, control := masterResetControl d }
    else { u with control := d }
  | .uartWrTxdata d => { u with txData := d, status := setTxe u.status }
  | .uartWrStatus d => { u with status := d }
  | .uartWrRxdata d => { u with rxData := d }
  | .uartReceive b => { u with rxData := b, status := setRda u.status }
  | _ => u

/-- The timer after one cycle (R155). -/
def cycledTimer (c : Config) (t : Timer) : Timer :=
  if t.prescaler = 1 then
    if t.data = 0 then { data := 0xFF, control := setTimerIf t.control, prescaler := prescaleConst c }
    else { t with data := t.data - 1, prescaler := prescaleConst c }
  else { t with prescaler := t.prescaler - 1 }

/-- The timer after `n` cycles. -/
def cycledTimers (c : Config) : Nat → Timer → Timer
  | 0, t => t
  | n + 1, t => cycledTimers c n (cycledTimer c t)

/-- What one cycle of the timer reports (R155). -/
def cycledEvents (t : Timer) : List Event :=
  if t.prescaler = 1 ∧ t.data = 0 ∧ timerId t.control = false then [.irqTimer] else []

/-- What `n` cycles of the timer report. -/
def advancedEvents (c : Config) : Nat → Timer → List Event
  | 0, _ => []
  | n + 1, t => cycledEvents t ++ advancedEvents c n (cycledTimer c t)

/-- The timer after a leaf operation (R153 to R155). -/
def timerAfter (c : Config) (t : Timer) : Instr → Timer
  | .timerWrData d => { t with data := d }
  | .timerWrControl d =>
    { data := t.data
      control := timerControlStore (pselConst c) d
      prescaler := if timerPrst d then prescaleConst c else t.prescaler }
  | .timerAdvance n => cycledTimers c n t
  | _ => t

/-- The listed bytes of memory after a leaf operation (R105). -/
def memAfter (s : State) : Instr → List Host.Cell
  | .memWr a d => cellsPut s.cfg.imageByte a.toNat d s.mem
  | _ => s.mem

/-- The cycles an operation counts (R161). -/
def cyclesOf : Instr → Nat
  | .timerAdvance n => n
  | _ => 0

/-- What a leaf operation answers (R7). -/
def answerOf (s : State) : Instr → Option Byte
  | .pinRd => some s.cfg.pinReadValue
  | .uartRdControl => some s.uart.control
  | .uartRdTxdata => some s.uart.txData
  | .uartRdStatus => some s.uart.status
  | .uartRdRxdata => some s.uart.rxData
  | .timerRdData => some s.timer.data
  | .timerRdControl => some (timerControlRead s.timer.control)
  | .memRd a => some (s.memRead a)
  | _ => none

/-- What a leaf operation emits (R7). -/
def eventsOf (s : State) : Instr → List Event
  | .uartWrTxdata d => [.tx d]
  | .traceWr d => [.trace s.cycles (tracedBit d)]
  | .uartReceive _ => if uartRie s.uart.control then [.irqUartRx] else []
  | .timerAdvance n => advancedEvents s.cfg n s.timer
  | _ => []

/-- The state after a leaf operation. -/
def effect (s : State) (j : Instr) : State :=
  { s with
    uart     := uartAfter s.uart j
    timer    := timerAfter s.cfg s.timer j
    mem      := memAfter s j
    cycles   := s.cycles + cyclesOf j
    response := answerOf s j
    events   := s.events ++ eventsOf s j }

section
variable (s : State) (j : Instr)

@[simp] theorem effect_uart : (effect s j).uart = uartAfter s.uart j := rfl
@[simp] theorem effect_timer : (effect s j).timer = timerAfter s.cfg s.timer j := rfl
@[simp] theorem effect_mem : (effect s j).mem = memAfter s j := rfl
@[simp] theorem effect_cycles : (effect s j).cycles = s.cycles + cyclesOf j := rfl
@[simp] theorem effect_cfg : (effect s j).cfg = s.cfg := rfl
@[simp] theorem effect_attached : (effect s j).attached = s.attached := rfl
@[simp] theorem effect_inputs : (effect s j).inputs = s.inputs := rfl
@[simp] theorem effect_response : (effect s j).response = answerOf s j := rfl
@[simp] theorem effect_events : (effect s j).events = s.events ++ eventsOf s j := rfl

/-- A byte of memory after an operation: only a memory write stores one (R105). -/
theorem memRead_effect (b : Addr) :
    (effect s j).memRead b =
      match j with
      | .memWr a d => if b = a then d else s.memRead b
      | _ => s.memRead b := by
  cases j with
  | memWr a d => exact memRead_memWrite s a b d
  | _ => rfl

end

/-! ### The cycles of the timer -/

section
variable {t : Timer}

theorem cycledTimer_of_no_tick (c : Config) (hp : t.prescaler ≠ 1) :
    cycledTimer c t = { t with prescaler := t.prescaler - 1 } := if_neg hp

theorem cycledTimer_of_count (c : Config) (hp : t.prescaler = 1) (hd : t.data ≠ 0) :
    cycledTimer c t = { t with data := t.data - 1, prescaler := prescaleConst c } := by
  rw [cycledTimer, if_pos hp, if_neg hd]

theorem cycledTimer_of_underflow (c : Config) (hp : t.prescaler = 1) (hd : t.data = 0) :
    cycledTimer c t = { data := 0xFF, control := setTimerIf t.control, prescaler := prescaleConst c } := by
  rw [cycledTimer, if_pos hp, if_pos hd]

theorem cycledEvents_of_no_tick (hp : t.prescaler ≠ 1) : cycledEvents t = [] := if_neg fun h => hp h.1

theorem cycledEvents_of_count (hd : t.data ≠ 0) : cycledEvents t = [] := if_neg fun h => hd h.2.1

theorem cycledEvents_of_underflow (hp : t.prescaler = 1) (hd : t.data = 0) :
    cycledEvents t = if timerId t.control then [] else [.irqTimer] := by
  cases hid : timerId t.control <;> simp [cycledEvents, hp, hd, hid]

end

theorem timerCycle_eq (s : State) :
    timerCycle s =
      { s with timer := cycledTimer s.cfg s.timer, events := s.events ++ cycledEvents s.timer } := by
  rcases timerCycle_cases s with ⟨hp, h⟩ | ⟨hp, hd, h⟩ | ⟨hp, hd, h⟩ <;> rw [h]
  · rw [cycledTimer_of_no_tick s.cfg hp, cycledEvents_of_no_tick hp, List.append_nil]
    rfl
  · rw [cycledTimer_of_count s.cfg hp hd, cycledEvents_of_count hd, List.append_nil]
    rfl
  · rw [cycledTimer_of_underflow s.cfg hp hd, cycledEvents_of_underflow hp hd]
    cases timerId s.timer.control <;> simp

theorem timerCycles_eq (n : Nat) (s : State) :
    timerCycles n s =
      { s with timer := cycledTimers s.cfg n s.timer, events := s.events ++ advancedEvents s.cfg n s.timer } := by
  induction n generalizing s with
  | zero =>
    rw [advancedEvents, List.append_nil]
    rfl
  | succ n ih =>
    rw [timerCycles, ih, timerCycle_eq, List.append_assoc]
    rfl

theorem timerAdvanced_eq_effect (n : Nat) (s : State) : timerAdvanced n s = effect s (.timerAdvance n) := by
  rw [timerAdvanced, timerCycles_eq]
  rfl

/-- A cycle leaves the control register, or sets `IF` in it. -/
theorem cycledTimer_control_cases (c : Config) (t : Timer) :
    (cycledTimer c t).control = t.control ∨ (cycledTimer c t).control = setTimerIf t.control := by
  by_cases hp : t.prescaler = 1
  · by_cases hd : t.data = 0
    · rw [cycledTimer_of_underflow c hp hd]; exact .inr rfl
    · rw [cycledTimer_of_count c hp hd]; exact .inl rfl
  · rw [cycledTimer_of_no_tick c hp]; exact .inl rfl

/-- What a setting of `IF` leaves, the cycles leave. -/
theorem cycledTimers_control {α : Type} (f : Byte → α) (hf : ∀ x, f (setTimerIf x) = f x) (c : Config) (n : Nat)
    (t : Timer) : f (cycledTimers c n t).control = f t.control := by
  induction n generalizing t with
  | zero => rfl
  | succ n ih =>
    rw [cycledTimers, ih]
    rcases cycledTimer_control_cases c t with h | h <;> rw [h]
    exact hf _

theorem cycledTimer_id (c : Config) (t : Timer) : timerId (cycledTimer c t).control = timerId t.control :=
  cycledTimers_control timerId timerId_setTimerIf c 1 t

/-! ### The effect is what the model performs -/

theorem uartWriteTxdata_eq_effect (d : Byte) (s : State) : uartWriteTxdata d s = effect s (.uartWrTxdata d) := by
  simp only [effect, uartAfter, ← setTxe_clearTxe s.uart.status]
  rfl

theorem uartReceived_eq_effect (b : Byte) (s : State) : uartReceived b s = effect s (.uartReceive b) := by
  by_cases h : uartRie s.uart.control = true
  · simp only [uartReceived, effect, eventsOf, if_pos h]
    rfl
  · simp only [uartReceived, effect, eventsOf, if_neg h, List.append_nil]
    rfl

theorem performs_eq_effect {s t : State} {j : Instr} (h : Performs s j t) : t = effect s j := by
  cases h with
  | traceWr => rfl
  | uartWrTxdata d => exact uartWriteTxdata_eq_effect d s
  | uartReceive b => exact uartReceived_eq_effect b s
  | timerAdvance n => exact timerAdvanced_eq_effect n s
  | _ =>
    simp only [effect, eventsOf, List.append_nil]
    rfl

/-! ### What an operation answers after RESET -/

theorem leafOf_wellFormed {c : Config} {i : Instr} (hwf : i.wellFormed c = true) : (leafOf c i).wellFormed c = true := by
  cases i with
  | busRd a => rw [leafOf_busRd]; exact (selected_wellFormed c a 0).1
  | busWr a d => rw [leafOf_busWr]; exact (selected_wellFormed c a d).2
  | _ => exact hwf

theorem isAttach_leafOf {c : Config} {i : Instr} (hi : isAttach i = false) : isAttach (leafOf c i) = false := by
  cases h : isAttach (leafOf c i) with
  | false => rfl
  | true =>
    rw [leafOf_attach h, hi] at h
    cases h

/-- Every well-formed operation but RESET and its parts has an effect. -/
theorem exists_performs {s : State} {i : Instr} (hi : isAttach i = false) (hwf : i.wellFormed s.cfg = true) :
    ∃ t, Performs s (leafOf s.cfg i) t := by
  have hrd := leafOf_ne_busRd s.cfg i
  have hwr := leafOf_ne_busWr s.cfg i
  replace hi := isAttach_leafOf (c := s.cfg) hi
  replace hwf := leafOf_wellFormed hwf
  generalize leafOf s.cfg i = j at *
  cases j with
  | busRd a => exact absurd rfl (hrd a)
  | busWr a d => exact absurd rfl (hwr a d)
  | reset | uartAttach | timerAttach => cases hi
  | memRd a => exact ⟨_, .memRd a ((s.cfg.select_eq_mem a).2 hwf)⟩
  | memWr a d => exact ⟨_, .memWr a d ((s.cfg.select_eq_mem a).2 hwf)⟩
  | _ => exact ⟨_, by constructor⟩

/-- After RESET every well-formed operation but RESET and its parts answers its effect. -/
theorem exec_eq_effect {s : State} {i : Instr} (ha : s.attached = true) (hi : isAttach i = false)
    (hwf : i.wellFormed s.cfg = true) : exec i s = .next (effect s (leafOf s.cfg i)) := by
  obtain ⟨t, ht⟩ := exists_performs hi hwf
  rw [exec_of_performs ha ht, performs_eq_effect ht]

/-- Everything an operation can do when it gives a next state. -/
theorem exec_next_cases {i : Instr} {s t : State} (h : exec i s = .next t) :
    (s.attached = true ∧ t = effect s (leafOf s.cfg i)) ∨ (s.attached = false ∧ Attaches s i t) :=
  (exec_cases h).imp_left fun ⟨ha, hp⟩ => ⟨ha, performs_eq_effect hp⟩

/-- The next state of any operation but RESET and its parts is its effect. -/
theorem eq_effect_of_exec {i : Instr} {s t : State} (hi : isAttach i = false) (h : exec i s = .next t) :
    t = effect s (leafOf s.cfg i) := by
  rcases exec_next_cases h with ⟨-, ht⟩ | ⟨-, ht⟩
  · exact ht
  · cases ht <;> cases hi

/-- The stimuli of a running block are well-formed and no attach. -/
theorem isAttach_of_isStimulus {i : Instr} (h : isStimulus i = true) : isAttach i = false := by
  cases i with
  | busRd | busWr | uartReceive | timerAdvance => rfl
  | _ => cases h

theorem wellFormed_of_isStimulus {i : Instr} (c : Config) (h : isStimulus i = true) : i.wellFormed c = true := by
  cases i with
  | busRd | busWr | uartReceive | timerAdvance => rfl
  | _ => cases h

/-! ### Runs -/

/-- The state after a run of operations. -/
def effects : List Instr → State → State
  | [], s => s
  | i :: is, s => effects is (effect s (leafOf s.cfg i))

@[simp] theorem effects_nil (s : State) : effects [] s = s := rfl

@[simp] theorem effects_cons (i : Instr) (is : List Instr) (s : State) :
    effects (i :: is) s = effects is (effect s (leafOf s.cfg i)) := rfl

theorem effects_append (is js : List Instr) (s : State) : effects (is ++ js) s = effects js (effects is s) := by
  induction is generalizing s with
  | nil => rfl
  | cons i is ih => exact ih _

@[simp] theorem effects_cfg (is : List Instr) (s : State) : (effects is s).cfg = s.cfg := by
  induction is generalizing s with
  | nil => rfl
  | cons i is ih => exact ih _

/-- After RESET a run of well-formed operations without an attach answers its effects. -/
theorem execAll_eq_effects {is : List Instr} {s : State} (ha : s.attached = true)
    (hrun : ∀ i ∈ is, isAttach i = false ∧ i.wellFormed s.cfg = true) : execAll is s = .next (effects is s) := by
  induction is generalizing s with
  | nil => rfl
  | cons i is ih =>
    obtain ⟨⟨hi, hwf⟩, hrest⟩ := List.forall_mem_cons.1 hrun
    rw [execAll_cons (exec_eq_effect ha hi hwf)]
    exact ih ha hrest

/-- After RESET a run of stimuli answers its effects. -/
theorem execAll_stimuli {is : List Instr} {s : State} (ha : s.attached = true) (hrun : ∀ i ∈ is, isStimulus i = true) :
    execAll is s = .next (effects is s) :=
  execAll_eq_effects ha fun i hi => ⟨isAttach_of_isStimulus (hrun i hi), wellFormed_of_isStimulus _ (hrun i hi)⟩

/-- What every operation of a run keeps, the run keeps. -/
theorem effects_keeps {P : State → Prop} {is : List Instr} {s : State}
    (hstep : ∀ i ∈ is, ∀ u : State, u.cfg = s.cfg → P u → P (effect u (leafOf s.cfg i))) (h : P s) :
    P (effects is s) := by
  induction is generalizing s with
  | nil => exact h
  | cons i is ih =>
    obtain ⟨hi, hrest⟩ := List.forall_mem_cons.1 hstep
    exact ih hrest (hi s rfl h)

end Sys2Proof.Machine
end

section
/-!
PROOFS. RESET and its parts (spec/70_reset_and_hazards.md rules R200, R201 and R204), and the state they leave
(spec/10_state.md rule R37).
-/

namespace Sys2Proof.Machine

/-! ### The constants of the configuration in their registers -/

theorem toNat_prescaleConst (c : Config) : (prescaleConst c).toNat = c.prescale := by
  have := c.prescale_le
  rw [prescaleConst, BitVec.toNat_ofNat, Nat.mod_eq_of_lt (by omega)]

/-- The low nibble of the byte that holds the constant is the constant. -/
theorem pselConst_nibble (c : Config) : (pselConst c).extractLsb' 0 4 = BitVec.ofNat 4 c.psel := by
  apply BitVec.eq_of_toNat_eq
  simp only [pselConst, BitVec.extractLsb'_toNat, BitVec.toNat_ofNat, Nat.shiftRight_zero]
  omega

theorem timerControlStore_nibble (c : Config) (d : Byte) :
    (timerControlStore (pselConst c) d).extractLsb' 0 4 = BitVec.ofNat 4 c.psel := by
  have hd : (d &&& 0xF0).extractLsb' 0 4 = 0 := by revert d; decide
  rw [timerControlStore, BitVec.extractLsb'_or, hd, pselConst_nibble]
  exact BitVec.zero_or

theorem timerControlReset_nibble (c : Config) : (timerControlReset c).extractLsb' 0 4 = BitVec.ofNat 4 c.psel := by
  rw [timerControlReset, BitVec.extractLsb'_or, pselConst_nibble]
  exact BitVec.zero_or

/-! ### The state after RESET -/

/-- Settles O16: the values of the reset state, with the prescaler's constant held exactly. -/
theorem resetStateValues : Obligations.ResetStateValues := by
  unfold Obligations.ResetStateValues
  exact ⟨rfl, rfl, rfl, rfl, rfl, rfl, toNat_prescaleConst _, rfl, fun _ => rfl, rfl, rfl⟩

/-- The constant is a value the prescaler may hold (R38). -/
theorem prescaleConst_inRange (c : Config) :
    1 ≤ (prescaleConst c).toNat ∧ (prescaleConst c).toNat ≤ c.prescale := by
  rw [toNat_prescaleConst]
  exact ⟨c.prescale_pos, Nat.le_refl _⟩

/-- Settles O17: each invariant is a fact about one reset value. -/
theorem invariantsAtReset : Obligations.InvariantsAtReset := by
  unfold Obligations.InvariantsAtReset
  intro c
  refine ⟨prescaleConst_inRange c, timerControlReset_nibble c, ?baud, memWf_afterReset c, ?status, rfl⟩
  case baud => exact (by decide : uartBaud uartControlReset ≠ 0b11)
  case status =>
    exact (by decide : uartTxe uartStatusReset = true ∧ uartStatusReset.extractLsb' 2 6 = 0)

/-! ### The effects of RESET and of its parts -/

/-- Settles O18: RESET writes every element of the state, the environment's fields apart. -/
theorem resetEffect : Obligations.ResetEffect := by
  unfold Obligations.ResetEffect
  exact fun s ha => whenUnattached_false ha

/-- Settles O19: each attach writes one device. -/
theorem attachEffects : Obligations.AttachEffects := by
  unfold Obligations.AttachEffects
  exact fun s ha => ⟨whenUnattached_false ha, whenUnattached_false ha⟩

/-! ### Refusals -/

/-- RESET and its parts answer through the guard of R201. -/
theorem exec_attach {i : Instr} (s : State) (hi : isAttach i = true) : ∃ t, exec i s = whenUnattached s t := by
  cases i with
  | reset | uartAttach | timerAttach => exact ⟨_, rfl⟩
  | _ => cases hi

/-- Every other well-formed operation answers through the guard of R204. -/
theorem exec_guarded {i : Instr} {s : State} (hi : isAttach i = false) (hwf : i.wellFormed s.cfg = true) :
    ∃ t, exec i s = whenAttached s t := by
  cases i with
  | reset | uartAttach | timerAttach => cases hi
  | memRd a => exact ⟨_, if_pos ((s.cfg.select_eq_mem a).2 hwf)⟩
  | memWr a d => exact ⟨_, if_pos ((s.cfg.select_eq_mem a).2 hwf)⟩
  | _ => exact ⟨_, rfl⟩

/-- Settles O20: an operation answers through one of the two guards, and a memory operation behind the address check. -/
theorem refusalConditions : Obligations.RefusalConditions := by
  unfold Obligations.RefusalConditions
  refine ⟨?secondReset, ?beforeReset, ?notPlain, ?completes⟩
  case secondReset =>
    intro i s hi ha
    obtain ⟨t, h⟩ := exec_attach s hi
    rw [h, whenUnattached_true ha]
  case beforeReset =>
    intro i s hi hwf ha
    obtain ⟨t, h⟩ := exec_guarded hi hwf
    rw [h, whenAttached_false ha]
  case notPlain =>
    intro s a d hp
    have hsel : s.cfg.select a ≠ .mem := by rw [Ne, s.cfg.select_eq_mem, hp]; decide
    exact ⟨if_neg hsel, if_neg hsel⟩
  case completes =>
    intro i s hne hwf
    cases hi : isAttach i
    · have ha : s.attached = true := by simpa [hi] using hne
      exact ⟨_, exec_eq_effect ha hi hwf⟩
    · have ha : s.attached = false := by simpa [hi] using hne
      obtain ⟨t, h⟩ := exec_attach s hi
      exact ⟨t, h.trans (whenUnattached_false ha)⟩

end Sys2Proof.Machine
end

section
/-!
PROOFS. The step (spec/00_scope.md rule R2): which operation it runs, that a run of stimuli never stops, and the invariants of
spec/10_state.md section 8 that every step keeps.
-/

namespace Sys2Proof.Machine

/-! ### One step -/

theorem step_eq_exec {s : State} {st : Stimulus} {rest : List Stimulus} {i : Instr} (hin : s.inputs = st :: rest)
    (hdec : decode st = .ok i) : step s = exec i { s with inputs := rest } := by
  simp only [step, hin, hdec]

theorem step_idle {s : State} (hin : s.inputs = []) : step s = .next s := by
  simp only [step, hin]

theorem step_undecodable {s : State} {st : Stimulus} {rest : List Stimulus} {e : DecodeError}
    (hin : s.inputs = st :: rest) (hdec : decode st = .error e) : step s = .refused (.undecodable e) := by
  simp only [step, hin, hdec]

/-- Settles O11. -/
theorem stepRunsDecoded : Obligations.StepRunsDecoded := by
  unfold Obligations.StepRunsDecoded
  exact fun s st rest i hin hdec => step_eq_exec hin hdec

/-- Settles O12. -/
theorem stepIdleOrUndecodable : Obligations.StepIdleOrUndecodable := by
  unfold Obligations.StepIdleOrUndecodable
  exact ⟨fun s hin => step_idle hin, fun s st rest e hin hdec => step_undecodable hin hdec⟩

/-! ### Runs of steps -/

theorem presentable_iff (st : Stimulus) : presentable st = true ↔ ∃ i, decode st = .ok i ∧ isStimulus i = true := by
  unfold presentable
  cases decode st <;> simp

/-- A step on presentable stimuli gives a next state after RESET, with one stimulus fewer pending. -/
theorem exists_step {s : State} (ha : s.attached = true) (hin : ∀ st ∈ s.inputs, presentable st = true) :
    ∃ t, step s = .next t ∧ t.attached = true ∧ t.inputs = s.inputs.drop 1 := by
  cases h : s.inputs with
  | nil => exact ⟨s, step_idle h, ha, h⟩
  | cons st rest =>
    obtain ⟨i, hdec, hi⟩ := (presentable_iff st).1 (hin st (h ▸ List.mem_cons_self))
    have hexec := exec_eq_effect (s := { s with inputs := rest }) ha (isAttach_of_isStimulus hi)
      (wellFormed_of_isStimulus _ hi)
    exact ⟨_, (step_eq_exec h hdec).trans hexec, ha, rfl⟩

theorem core_run_succ {s t : State} (k : Nat) (h : step s = .next t) : core.run (k + 1) s = core.run k t := by
  have hstep : core.step s = .next t := h
  simp only [Host.Core.run, hstep]

/-- Settles O14, by induction on the number of steps. -/
theorem presentableRunsNeverStop : Obligations.PresentableRunsNeverStop := by
  unfold Obligations.PresentableRunsNeverStop
  intro k
  induction k with
  | zero => exact fun s ha _ => ⟨s, rfl, ha, rfl⟩
  | succ k ih =>
    intro s ha hin
    obtain ⟨t, hstep, hta, htin⟩ := exists_step ha hin
    have htpres : ∀ st ∈ t.inputs, presentable st = true :=
      fun st hst => hin st (List.mem_of_mem_drop (htin ▸ hst))
    obtain ⟨u, hrun, hua, huin⟩ := ih t hta htpres
    refine ⟨u, (core_run_succ k hstep).trans hrun, hua, ?_⟩
    rw [huin, htin, List.drop_drop, Nat.add_comm]

/-! ### What every operation keeps -/

/-- Settles O15: an effect writes none of the three fields, and RESET and its parts write `attached` alone. -/
theorem configurationFixed : Obligations.ConfigurationFixed := by
  unfold Obligations.ConfigurationFixed
  intro i s t h
  rcases exec_next_cases h with ⟨ha, rfl⟩ | ⟨ha, hatt⟩
  · exact ⟨rfl, rfl, id⟩
  · cases hatt <;> exact ⟨rfl, rfl, fun h1 => absurd h1 (by simp [ha])⟩

/-- A property that every effect and every part of RESET keeps, and that the pending stimuli have no part in, is kept by every
step. -/
theorem step_keeps_of_effect {P : State → Prop}
    (hin : ∀ (s : State) (r : List Stimulus), P s → P { s with inputs := r })
    (heffect : ∀ s j, P s → P (effect s j)) (hattach : ∀ s i t, P s → Attaches s i t → P t)
    {s t : State} (hs : P s) (h : step s = .next t) : P t := by
  refine step_keeps P hin ?_ s t hs h
  intro i s t hs h
  rcases exec_next_cases h with ⟨-, rfl⟩ | ⟨-, hatt⟩
  · exact heffect s _ hs
  · exact hattach s i t hs hatt

/-! ### The prescaler (R38) -/

/-- The prescaler of a timer holds 1 to `P` (R38). -/
def Timer.InRange (c : Config) (t : Timer) : Prop := 1 ≤ t.prescaler.toNat ∧ t.prescaler.toNat ≤ c.prescale

/-- Below a value of at least 1 a register steps down without wrapping. -/
theorem toNat_sub_one {w : Nat} {x : BitVec w} (h : 1 ≤ x.toNat) : (x - 1).toNat = x.toNat - 1 := by
  have hw : w ≠ 0 := by
    rintro rfl
    simp [BitVec.toNat_of_zero_length] at h
  have h1 : (1 : BitVec w).toNat = 1 := by
    simp [Nat.mod_eq_of_lt (Nat.one_lt_two_pow hw)]
  rw [BitVec.toNat_sub_of_le (by rw [BitVec.le_def, h1]; exact h), h1]

/-- A cycle reloads the prescaler, or steps it down from a value above 1. -/
theorem Timer.InRange.cycled {c : Config} {t : Timer} (h : t.InRange c) : (cycledTimer c t).InRange c := by
  by_cases hp : t.prescaler = 1
  · by_cases hd : t.data = 0
    · rw [cycledTimer_of_underflow c hp hd]; exact prescaleConst_inRange c
    · rw [cycledTimer_of_count c hp hd]; exact prescaleConst_inRange c
  · rw [cycledTimer_of_no_tick c hp]
    obtain ⟨hlo, hhi⟩ := h
    have hne : t.prescaler.toNat ≠ 1 := fun h1 => hp (BitVec.eq_of_toNat_eq h1)
    simp only [Timer.InRange, toNat_sub_one hlo]
    omega

theorem Timer.InRange.cycles {c : Config} {t : Timer} (h : t.InRange c) (n : Nat) : (cycledTimers c n t).InRange c := by
  induction n generalizing t with
  | zero => exact h
  | succ n ih => exact ih h.cycled

theorem Timer.InRange.after {c : Config} {t : Timer} (h : t.InRange c) (j : Instr) : (timerAfter c t j).InRange c := by
  cases j with
  | timerWrControl d =>
    simp only [timerAfter, Timer.InRange]
    split
    · exact prescaleConst_inRange c
    · exact h
  | timerAdvance n => exact h.cycles n
  | _ => exact h

/-- Settles O45: the timer's prescaler stays in range under every effect, and RESET and its parts leave it or load `P`. -/
theorem prescalerRangeKept : Obligations.PrescalerRangeKept := by
  unfold Obligations.PrescalerRangeKept
  intro s t
  refine step_keeps_of_effect (P := PrescalerInRange) (fun _ _ h => h) (fun _ j h => Timer.InRange.after h j) ?_
  intro s i t hs hatt
  cases hatt with
  | uartAttach => exact hs
  | reset | timerAttach => exact prescaleConst_inRange s.cfg

/-! ### The forced nibble and the baud-select field (R40, R23) -/

theorem timerAfter_nibble (c : Config) {t : Timer} (h : t.control.extractLsb' 0 4 = BitVec.ofNat 4 c.psel) (j : Instr) :
    (timerAfter c t j).control.extractLsb' 0 4 = BitVec.ofNat 4 c.psel := by
  cases j with
  | timerWrControl d => exact timerControlStore_nibble c d
  | timerAdvance n => exact (cycledTimers_control (·.extractLsb' 0 4) setTimerIf_nibble c n t).trans h
  | _ => exact h

/-- Only the control write stores a `BAUD` field, and it stores the reset pattern as 0 (R125). -/
theorem uartAfter_baud {u : Uart} (h : uartBaud u.control ≠ 0b11) (j : Instr) :
    uartBaud (uartAfter u j).control ≠ 0b11 := by
  cases j with
  | uartWrControl d =>
    by_cases hd : isMasterReset d = true
    · simp only [uartAfter, if_pos hd, uartBaud_masterReset]
      decide
    · simp only [uartAfter, if_neg hd]
      rwa [isMasterReset_iff] at hd
  | _ => exact h

/-- Settles O46: the control write forces both fields, and nothing else writes either. -/
theorem forcedFieldsKept : Obligations.ForcedFieldsKept := by
  unfold Obligations.ForcedFieldsKept
  refine ⟨fun s t => ?nibble, fun s t => ?baud⟩
  case nibble =>
    refine step_keeps_of_effect (P := ControlNibbleFixed) (fun _ _ h => h) (fun s j h => timerAfter_nibble s.cfg h j) ?_
    intro s i t hs hatt
    cases hatt with
    | uartAttach => exact hs
    | reset | timerAttach => exact timerControlReset_nibble s.cfg
  case baud =>
    refine step_keeps_of_effect (P := BaudNotReset) (fun _ _ h => h) (fun _ j h => uartAfter_baud h j) ?_
    intro s i t hs hatt
    cases hatt with
    | timerAttach => exact hs
    | reset | uartAttach => exact (by decide : uartBaud uartControlReset ≠ 0b11)

/-! ### The canonical form of memory -/

theorem memAfter_canonical {s : State} (h : MemoryCanonical s) (j : Instr) : memWf s.cfg (memAfter s j) = true := by
  cases j with
  | memWr a d => exact memWf_memWrite s a d h
  | _ => exact h

/-- Settles O47: the one store keeps the form, and RESET empties the list. -/
theorem memoryCanonicalKept : Obligations.MemoryCanonicalKept := by
  unfold Obligations.MemoryCanonicalKept
  intro s t
  refine step_keeps_of_effect (P := MemoryCanonical) (fun _ _ h => h) (fun _ j h => memAfter_canonical h j) ?_
  intro s i t hs hatt
  cases hatt with
  | reset => exact memWf_afterReset s.cfg
  | uartAttach | timerAttach => exact hs

end Sys2Proof.Machine
end

section
/-!
PROOFS. The sentinel and plain memory (spec/40_bus_dispatcher.md rules R102 to R105; spec/20_memory.md rule R70): the effects of
their operations, and that a read answers the latest write.
-/

namespace Sys2Proof.Machine

/-- Settles O21. -/
theorem pinOperations : Obligations.PinOperations := by
  unfold Obligations.PinOperations
  exact fun s ha => ⟨exec_pinRd_of_attached ha, fun d => exec_traceWr_of_attached d ha⟩

/-! ### One read and one write -/

theorem exec_memRd_of_attached {s : State} {a : Addr} (ha : s.attached = true) (hsel : s.cfg.select a = .mem) :
    exec (.memRd a) s = .next (plainRead a s) :=
  exec_of_performs ha (.memRd a hsel)

theorem exec_memWr_of_attached {s : State} {a : Addr} (d : Byte) (ha : s.attached = true)
    (hsel : s.cfg.select a = .mem) : exec (.memWr a d) s = .next (plainWrite a d s) :=
  exec_of_performs ha (.memWr a d hsel)

theorem memRead_plainWrite (s : State) (a b : Addr) (d : Byte) :
    (plainWrite a d s).memRead b = if b = a then d else s.memRead b :=
  memRead_memWrite s.quiet a b d

/-- The words `11 0 xx` (R83). -/
theorem mem_read_word (b : BitVec 5) (h : b.extractLsb' 2 3 = 0b110) :
    b = 0b11000 ∨ b = 0b11001 ∨ b = 0b11010 ∨ b = 0b11011 := by
  revert b; decide

/-- Settles O23. -/
theorem plainMemoryRead : Obligations.PlainMemoryRead := by
  unfold Obligations.PlainMemoryRead
  refine ⟨?word, fun s a ha hsel => ⟨exec_memRd_of_attached ha hsel, ?again, ?afterWrite⟩⟩
  case word =>
    rintro ⟨b, a, d⟩ h
    rcases mem_read_word b h with rfl | rfl | rfl | rfl <;> rfl
  case again => exact exec_memRd_of_attached (s := { s with response := some (s.memRead a) }) ha hsel
  case afterWrite =>
    intro d
    refine ⟨plainWrite a d s, plainRead a (plainWrite a d s), exec_memWr_of_attached d ha hsel,
      exec_memRd_of_attached ha hsel, ?_⟩
    rw [plainRead, State.respond_response, memRead_plainWrite, if_pos rfl]

/-- Settles O24. -/
theorem plainMemoryWrite : Obligations.PlainMemoryWrite := by
  unfold Obligations.PlainMemoryWrite
  intro s a d ha hsel
  refine ⟨plainWrite a d s, exec_memWr_of_attached d ha hsel, ?_, fun b hb => ?_, rfl⟩
  · rw [memRead_plainWrite, if_pos rfl]
  · rw [memRead_plainWrite, if_neg hb]

/-! ### A read after a run -/

/-- A memory write over the bus carries its own address and byte. -/
theorem leafOf_eq_memWr {c : Config} {i : Instr} {a : Addr} {d : Byte} (h : leafOf c i = .memWr a d) :
    i = .busWr a d ∨ i = .memWr a d := by
  cases i with
  | busRd b => rw [leafOf_busRd] at h; have := selectedRead_mem b (c.select b); rw [h] at this; simp at this
  | busWr b e => rw [leafOf_busWr] at h; have := selectedWrite_mem b e (c.select b); rw [h] at this; simp_all
  | _ => exact .inr h

/-- A byte of memory stands under every operation but a memory write of its own address. -/
theorem memRead_effect_of_ne {j : Instr} {b : Addr} (h : ∀ d, j ≠ .memWr b d) (s : State) :
    (effect s j).memRead b = s.memRead b := by
  rw [memRead_effect]
  cases j with
  | memWr a d => exact if_neg fun hb : b = a => h d (hb ▸ rfl)
  | _ => rfl

/-- A stimulus that does not write an address leaves its byte. -/
theorem memRead_effect_stimulus {c : Config} {i : Instr} {a : Addr} (hi : isStimulus i = true)
    (hw : writesAddr a i = false) (s : State) : (effect s (leafOf c i)).memRead a = s.memRead a := by
  refine memRead_effect_of_ne (fun d hd => ?_) s
  rcases leafOf_eq_memWr hd with rfl | rfl
  · exact absurd hw (by simp [writesAddr])
  · cases hi

theorem leafOf_busRd_plain {c : Config} {a : Addr} (hp : c.isPlain a = true) : leafOf c (.busRd a) = .memRd a := by
  rw [leafOf_busRd, (c.select_eq_mem a).2 hp]
  rfl

theorem leafOf_busWr_plain {c : Config} {a : Addr} (d : Byte) (hp : c.isPlain a = true) :
    leafOf c (.busWr a d) = .memWr a d := by
  rw [leafOf_busWr, (c.select_eq_mem a).2 hp]
  rfl

/-- Settles O25: the write stores the byte, the stimuli between keep it, and the read answers it. -/
theorem readReturnsLatestWrite : Obligations.ReadReturnsLatestWrite := by
  unfold Obligations.ReadReturnsLatestWrite
  intro s a d between ha hp hbetween
  have hrun : ∀ i ∈ .busWr a d :: between ++ [.busRd a], isStimulus i = true := by
    intro i hi
    simp only [List.cons_append, List.mem_cons, List.mem_append, List.not_mem_nil, or_false] at hi
    rcases hi with rfl | hi | rfl
    · rfl
    · exact (hbetween i hi).1
    · rfl
  refine ⟨_, execAll_stimuli ha hrun, ?_⟩
  have hstored : (effect s (.memWr a d)).memRead a = d :=
    (memRead_memWrite s a a d).trans (if_pos rfl)
  have hkept : (effects between (effect s (.memWr a d))).memRead a = d :=
    effects_keeps (P := fun u => u.memRead a = d)
      (fun i hi u _ hu => (memRead_effect_stimulus (hbetween i hi).1 (hbetween i hi).2 u).trans hu) hstored
  rw [List.cons_append, effects_cons, leafOf_busWr_plain d hp, effects_append, effects_cons, effects_nil, effects_cfg,
    effect_cfg, leafOf_busRd_plain hp]
  exact congrArg some hkept

end Sys2Proof.Machine
end

section
/-!
PROOFS. The serial device (spec/41_uart.md): the effects of its operations, and the laws of `TXE`, `RDA` and the received byte
over runs (rules R39, R132 and R133).
-/

namespace Sys2Proof.Machine

/-! ### One operation -/

/-- Settles O26. -/
theorem uartReadEffects : Obligations.UartReadEffects := by
  unfold Obligations.UartReadEffects
  exact fun s ha => ⟨exec_of_performs ha .uartRdControl, exec_of_performs ha .uartRdTxdata,
    exec_of_performs ha .uartRdStatus, exec_of_performs ha .uartRdRxdata⟩

/-- Settles O27. -/
theorem uartControlWriteEffect : Obligations.UartControlWriteEffect := by
  unfold Obligations.UartControlWriteEffect
  intro s d ha
  rw [exec_of_performs ha (.uartWrControl d), uartWriteControl]
  simp only [isMasterReset_iff]
  rfl

/-- Settles O28. -/
theorem uartTransmitEffect : Obligations.UartTransmitEffect := by
  unfold Obligations.UartTransmitEffect
  exact fun s d ha => exec_eq_effect ha rfl rfl

/-- Settles O29. -/
theorem uartRawWriteEffects : Obligations.UartRawWriteEffects := by
  unfold Obligations.UartRawWriteEffects
  exact fun s d ha => ⟨exec_of_performs ha (.uartWrStatus d), exec_of_performs ha (.uartWrRxdata d)⟩

/-- Settles O30. -/
theorem uartReceiveEffect : Obligations.UartReceiveEffect := by
  unfold Obligations.UartReceiveEffect
  intro s b ha
  rw [exec_uartReceive_of_attached b ha, uartReceived, uartRie]
  split <;> rfl

/-! ### Each register after an operation -/

@[simp] theorem uartAfter_txData (u : Uart) (j : Instr) :
    (uartAfter u j).txData = match j with
      | .uartWrTxdata d => d
      | _ => u.txData := by
  cases j with
  | uartWrControl d => simp only [uartAfter]; split <;> rfl
  | _ => rfl

@[simp] theorem uartAfter_rxData (u : Uart) (j : Instr) :
    (uartAfter u j).rxData = match j with
      | .uartReceive b => b
      | .uartWrRxdata d => d
      | _ => u.rxData := by
  cases j with
  | uartWrControl d => simp only [uartAfter]; split <;> rfl
  | _ => rfl

/-- `RDA` after an operation (R133). -/
theorem uartRda_uartAfter (u : Uart) (j : Instr) :
    uartRda (uartAfter u j).status = match j with
      | .uartReceive _ => true
      | .uartRdRxdata => false
      | .uartWrControl d => uartRda u.status && !isMasterReset d
      | .uartWrStatus d => uartRda d
      | _ => uartRda u.status := by
  cases j with
  | uartReceive b => exact uartRda_setRda _
  | uartRdRxdata => exact uartRda_clearRda _
  | uartWrTxdata d => exact uartRda_setTxe _
  | uartWrControl d =>
    cases h : isMasterReset d
    · simp [uartAfter, h]
    · simp [uartAfter, h, masterResetStatus, uartRda]
  | _ => rfl

/-- `TXE` = 1 is kept by every operation but a raw status write (R39 (a)). -/
theorem uartTxe_uartAfter {u : Uart} {j : Instr} (h : uartTxe u.status = true) (hj : ∀ d, j ≠ .uartWrStatus d) :
    uartTxe (uartAfter u j).status = true := by
  cases j with
  | uartReceive b => exact (uartTxe_setRda _).trans h
  | uartRdRxdata => exact (uartTxe_clearRda _).trans h
  | uartWrTxdata d => exact uartTxe_setTxe _
  | uartWrControl d =>
    simp only [uartAfter]
    split
    · exact (by decide : uartTxe masterResetStatus = true)
    · exact h
  | uartWrStatus d => exact absurd rfl (hj d)
  | _ => exact h

/-- Bits 7:2 of the status = 0 are kept by every operation but a raw status write (R39 (c)). -/
theorem storageBits_uartAfter {u : Uart} {j : Instr} (h : u.status.extractLsb' 2 6 = 0)
    (hj : ∀ d, j ≠ .uartWrStatus d) : (uartAfter u j).status.extractLsb' 2 6 = 0 := by
  cases j with
  | uartReceive b => exact (setRda_storage _).trans h
  | uartRdRxdata => exact (clearRda_storage _).trans h
  | uartWrTxdata d => exact (setTxe_storage _).trans h
  | uartWrControl d =>
    simp only [uartAfter]
    split
    · exact (by decide : masterResetStatus.extractLsb' 2 6 = 0)
    · exact h
  | uartWrStatus d => exact absurd rfl (hj d)
  | _ => exact h

theorem leafOf_ne_uartWrStatus {c : Config} {i : Instr} (h : isStatusWrite c i = false) (d : Byte) :
    leafOf c i ≠ .uartWrStatus d := by
  intro hd
  rw [isStatusWrite, hd] at h
  cases h

/-- Settles O34: each effect keeps both, and the attaches store the reset status or leave it. -/
theorem statusQuiescentKept : Obligations.StatusQuiescentKept := by
  unfold Obligations.StatusQuiescentKept
  rintro i s t hw ⟨htxe, hbits⟩ h
  rcases exec_next_cases h with ⟨-, rfl⟩ | ⟨-, hatt⟩
  · have hne := leafOf_ne_uartWrStatus hw
    exact ⟨uartTxe_uartAfter htxe hne, storageBits_uartAfter hbits hne⟩
  · cases hatt with
    | timerAttach => exact ⟨htxe, hbits⟩
    | reset | uartAttach =>
      exact (by decide : uartTxe uartStatusReset = true ∧ uartStatusReset.extractLsb' 2 6 = 0)

/-! ### Transmit law (R132) -/

/-- The eight leaf reads (R85). -/
def isLeafRead : Instr → Bool
  | .pinRd => true
  | .uartRdControl => true
  | .uartRdTxdata => true
  | .uartRdStatus => true
  | .uartRdRxdata => true
  | .timerRdData => true
  | .timerRdControl => true
  | .memRd _ => true
  | _ => false

theorem isLeafRead_leafOf_busRd (c : Config) (a : Addr) : isLeafRead (leafOf c (.busRd a)) = true := by
  rw [leafOf_busRd]
  have h := selectedRead_mem a (c.select a)
  simp only [List.mem_cons, List.not_mem_nil, or_false] at h
  rcases h with h | h | h | h | h | h | h | h <;> rw [h] <;> rfl

theorem eventsOf_leafRead {j : Instr} (h : isLeafRead j = true) (s : State) : eventsOf s j = [] := by
  cases j with
  | traceWr | uartWrTxdata | uartReceive | timerAdvance => cases h
  | _ => rfl

theorem txBytes_cons (c : Config) (i : Instr) (is : List Instr) : txBytes c (i :: is) = txBytes c [i] ++ txBytes c is := by
  simp only [txBytes]
  cases leafOf c i <;> rfl

theorem txBytes_leafRead {c : Config} {i : Instr} (h : isLeafRead (leafOf c i) = true) : txBytes c [i] = [] := by
  simp only [txBytes]
  generalize leafOf c i = j at *
  cases j with
  | uartWrTxdata => cases h
  | _ => rfl

theorem txBytes_transmit {c : Config} {i : Instr} {b : Byte} (h : leafOf c i = .uartWrTxdata b) : txBytes c [i] = [b] := by
  simp only [txBytes, h]

theorem isReadOrTransmit_cases {c : Config} {i : Instr} (h : isReadOrTransmit c i = true) :
    isLeafRead (leafOf c i) = true ∨ ∃ b, leafOf c i = .uartWrTxdata b := by
  unfold isReadOrTransmit at h
  split at h
  · exact .inl (isLeafRead_leafOf_busRd c _)
  next hleaf => exact .inr ⟨_, hleaf⟩
  · cases h

/-- What a transmit run may hold answers its effect after RESET. -/
theorem isReadOrTransmit_runs {c : Config} {i : Instr} (h : isReadOrTransmit c i = true) :
    isAttach i = false ∧ i.wellFormed c = true := by
  cases i with
  | busRd | busWr | uartWrTxdata => exact ⟨rfl, rfl⟩
  | _ => cases h

/-- One operation of a transmit run: it emits what it transmits, and `TXE` stays 1. -/
theorem transmit_step {c : Config} {i : Instr} (h : isReadOrTransmit c i = true) (s : State) :
    eventsOf s (leafOf c i) = (txBytes c [i]).map .tx ∧ ∀ d, leafOf c i ≠ .uartWrStatus d := by
  rcases isReadOrTransmit_cases h with hread | ⟨b, hb⟩
  · refine ⟨by rw [eventsOf_leafRead hread, txBytes_leafRead hread]; rfl, fun d hd => ?_⟩
    rw [hd] at hread
    cases hread
  · rw [hb, txBytes_transmit hb]
    exact ⟨rfl, fun d => Instr.noConfusion⟩

theorem effects_transmit {is : List Instr} {s : State} (hrun : ∀ i ∈ is, isReadOrTransmit s.cfg i = true)
    (htxe : uartTxe s.uart.status = true) :
    (effects is s).events = s.events ++ (txBytes s.cfg is).map .tx ∧ uartTxe (effects is s).uart.status = true := by
  induction is generalizing s with
  | nil => exact ⟨(List.append_nil _).symm, htxe⟩
  | cons i is ih =>
    obtain ⟨hi, hrest⟩ := List.forall_mem_cons.1 hrun
    obtain ⟨hevents, hne⟩ := transmit_step hi s
    obtain ⟨hlog, htxe'⟩ := ih (s := effect s (leafOf s.cfg i)) hrest (uartTxe_uartAfter htxe hne)
    refine ⟨?_, htxe'⟩
    rw [effects_cons, hlog, effect_events, hevents, txBytes_cons s.cfg i is, List.map_append, List.append_assoc]
    rfl

/-- Settles O31: `effects_transmit` over the run. -/
theorem transmitLaw : Obligations.TransmitLaw := by
  unfold Obligations.TransmitLaw
  intro s is ha htxe hrun
  obtain ⟨hlog, htxe'⟩ := effects_transmit hrun htxe
  exact ⟨_, execAll_eq_effects ha fun i hi => isReadOrTransmit_runs (hrun i hi), hlog, htxe'⟩

/-! ### Receive law (R133) and the history of `RDA` (R39 (b)) -/

theorem rxData_of_not_touchesReceive {c : Config} {i : Instr} (h : touchesReceive c i = false) (u : Uart) :
    (uartAfter u (leafOf c i)).rxData = u.rxData := by
  rw [uartAfter_rxData]
  unfold touchesReceive at h
  generalize leafOf c i = j at *
  cases j with
  | uartReceive | uartWrRxdata => cases h
  | _ => rfl

theorem rda_of_not_setsRda {c : Config} {i : Instr} (h : setsRda c i = false) {u : Uart}
    (hu : uartRda u.status = false) : uartRda (uartAfter u (leafOf c i)).status = false := by
  rw [uartRda_uartAfter]
  unfold setsRda at h
  generalize leafOf c i = j at *
  cases j with
  | uartReceive => cases h
  | uartRdRxdata => rfl
  | uartWrControl d => simp only [hu, Bool.false_and]
  | uartWrStatus d => exact h
  | _ => exact hu

/-- Settles O32: the byte is kept until the read, and no admitted operation sets `RDA`. -/
theorem receiveLaw : Obligations.ReceiveLaw := by
  unfold Obligations.ReceiveLaw
  refine ⟨?readBack, ?staysClear⟩
  case readBack =>
    intro s b between ha hbetween
    have hrun : ∀ i ∈ .uartReceive b :: between ++ [.uartRdRxdata],
        isAttach i = false ∧ i.wellFormed s.cfg = true := by
      intro i hi
      simp only [List.cons_append, List.mem_cons, List.mem_append, List.not_mem_nil, or_false] at hi
      rcases hi with rfl | hi | rfl
      · exact ⟨rfl, rfl⟩
      · have hs := (hbetween i hi).1
        exact ⟨isAttach_of_isStimulus hs, wellFormed_of_isStimulus _ hs⟩
      · exact ⟨rfl, rfl⟩
    refine ⟨_, execAll_eq_effects ha hrun, ?_⟩
    have hkept : (effects between (effect s (.uartReceive b))).uart.rxData = b :=
      effects_keeps (P := fun u => u.uart.rxData = b)
        (fun i hi u _ hu => (rxData_of_not_touchesReceive (hbetween i hi).2 u.uart).trans hu) rfl
    rw [List.cons_append, effects_cons, effects_append]
    exact ⟨congrArg some hkept, uartRda_clearRda _⟩
  case staysClear =>
    intro s is ha hrda hrun
    refine ⟨_, execAll_stimuli ha fun i hi => (hrun i hi).1, ?_⟩
    exact effects_keeps (P := fun u => uartRda u.uart.status = false)
      (fun i hi u _ hu => rda_of_not_setsRda (hrun i hi).2 hu) hrda

/-- One operation of a run without a raw status write moves `RDA` as the history does. -/
theorem rdaHistory_cons {c : Config} {i : Instr} (h : isStatusWrite c i = false) (u : Uart) (is : List Instr) :
    rdaHistory c (uartRda u.status) (i :: is) = rdaHistory c (uartRda (uartAfter u (leafOf c i)).status) is := by
  rw [uartRda_uartAfter, rdaHistory]
  have hne := leafOf_ne_uartWrStatus h
  generalize leafOf c i = j at *
  cases j with
  | uartWrStatus d => exact absurd rfl (hne d)
  | _ => rfl

/-- Settles O33, by induction on the run. -/
theorem rdaIsHistory : Obligations.RdaIsHistory := by
  unfold Obligations.RdaIsHistory
  intro s is ha hrun
  refine ⟨_, execAll_stimuli ha fun i hi => (hrun i hi).1, ?_⟩
  clear ha
  induction is generalizing s with
  | nil => rfl
  | cons i is ih =>
    obtain ⟨⟨-, hi⟩, hrest⟩ := List.forall_mem_cons.1 hrun
    rw [rdaHistory_cons hi]
    exact ih (effect s (leafOf s.cfg i)) hrest

end Sys2Proof.Machine
end

section
/-!
PROOFS. The timer (spec/42_timer.md): the effects of its operations, the closed form of the advance (rule R156) by induction on
the count, and the laws that follow from it (rules R155, R157 to R159 and R163).
-/

namespace Sys2Proof.Machine

/-! ### Reads, writes and one cycle -/

/-- Settles O35. -/
theorem timerReadEffects : Obligations.TimerReadEffects := by
  unfold Obligations.TimerReadEffects
  exact fun s ha => ⟨exec_of_performs ha .timerRdData, exec_of_performs ha .timerRdControl⟩

/-- Settles O36. -/
theorem timerWriteEffects : Obligations.TimerWriteEffects := by
  unfold Obligations.TimerWriteEffects
  exact fun s d ha => ⟨exec_of_performs ha (.timerWrData d), exec_of_performs ha (.timerWrControl d)⟩

/-- An advance after RESET, in the timer and the log. -/
theorem exec_timerAdvance_eq {s : State} (n : Nat) (ha : s.attached = true) :
    exec (.timerAdvance n) s = .next { s with
      response := none, cycles := s.cycles + n
      timer := cycledTimers s.cfg n s.timer
      events := s.events ++ advancedEvents s.cfg n s.timer } :=
  exec_eq_effect ha rfl rfl

/-- An advance by one cycle. -/
theorem exec_timerAdvance_one {s : State} (ha : s.attached = true) :
    exec (.timerAdvance 1) s = .next { s with
      response := none, cycles := s.cycles + 1
      timer := cycledTimer s.cfg s.timer
      events := s.events ++ cycledEvents s.timer } := by
  rw [exec_timerAdvance_eq 1 ha, advancedEvents, advancedEvents, List.append_nil]
  rfl

/-- Settles O37: the three cases of a cycle. -/
theorem timerOneCycle : Obligations.TimerOneCycle := by
  unfold Obligations.TimerOneCycle
  refine fun s ha => ⟨fun _ hp => ?noTick, fun hp hd => ?count, fun hp hd => ?underflow⟩ <;>
    rw [exec_timerAdvance_one ha]
  case noTick => rw [cycledTimer_of_no_tick s.cfg hp, cycledEvents_of_no_tick hp, List.append_nil]
  case count =>
    rw [cycledTimer_of_count s.cfg hp hd, cycledEvents_of_count hd, List.append_nil]
    rfl
  case underflow =>
    rw [cycledTimer_of_underflow s.cfg hp hd, cycledEvents_of_underflow hp hd, apply_ite (s.events ++ ·),
      List.append_nil]
    rfl

/-! ### Splitting (R163) -/

theorem cycledTimers_add (c : Config) (a b : Nat) (t : Timer) :
    cycledTimers c (a + b) t = cycledTimers c b (cycledTimers c a t) := by
  induction a generalizing t with
  | zero => rw [Nat.zero_add]; rfl
  | succ a ih =>
    rw [Nat.add_right_comm]
    exact ih _

theorem advancedEvents_add (c : Config) (a b : Nat) (t : Timer) :
    advancedEvents c (a + b) t = advancedEvents c a t ++ advancedEvents c b (cycledTimers c a t) := by
  induction a generalizing t with
  | zero => rw [Nat.zero_add]; rfl
  | succ a ih =>
    rw [Nat.add_right_comm, advancedEvents, advancedEvents, ih, List.append_assoc]
    rfl

theorem effect_timerAdvance_add (s : State) (a b : Nat) :
    effect (effect s (.timerAdvance a)) (.timerAdvance b) = effect s (.timerAdvance (a + b)) := by
  have htimer := cycledTimers_add s.cfg a b s.timer
  have hevents := advancedEvents_add s.cfg a b s.timer
  simp only [effect, timerAfter, eventsOf, cyclesOf, uartAfter, memAfter, answerOf, htimer, hevents, List.append_assoc,
    Nat.add_assoc]

/-- Settles O38: after RESET the two effects compose, and before RESET both sides are refused. -/
theorem advanceSplits : Obligations.AdvanceSplits := by
  unfold Obligations.AdvanceSplits
  refine ⟨fun s a b => ?split, fun s ha => ?nothing⟩
  case split =>
    cases ha : s.attached
    · have hrefused : ∀ n, exec (.timerAdvance n) s = .refused .beforeReset := fun n => whenAttached_false ha
      simp only [execAll, hrefused]
    · have hadv : ∀ n (u : State), u.attached = true → exec (.timerAdvance n) u = .next (effect u (.timerAdvance n)) :=
        fun n u hu => exec_eq_effect hu rfl rfl
      rw [execAll_cons (hadv a s ha), execAll_cons (hadv b (effect s (.timerAdvance a)) ha), hadv (a + b) s ha,
        effect_timerAdvance_add]
      rfl
  case nothing =>
    rw [exec_timerAdvance_eq 0 ha, advancedEvents, List.append_nil]
    rfl

/-! ### The functions of the closed form, one cycle at a time (R156) -/

theorem closedTicks_zero {P p : Nat} (hp : 1 ≤ p) : closedTicks P p 0 = 0 := if_pos hp

theorem closedPrescaler_zero {P p : Nat} (hp : 1 ≤ p) : closedPrescaler P p 0 = p := if_pos hp

/-- From a full prescaler every `P` cycles are a tick. -/
theorem closedTicks_full {P : Nat} (hP : 1 ≤ P) (n : Nat) : closedTicks P P n = n / P := by
  unfold closedTicks
  split
  next h => rw [Nat.div_eq_of_lt h]
  next h => rw [Nat.div_eq_sub_div hP (Nat.le_of_not_lt h), Nat.add_comm]

theorem closedPrescaler_full {P : Nat} (n : Nat) : closedPrescaler P P n = P - n % P := by
  unfold closedPrescaler
  split
  next h => rw [Nat.mod_eq_of_lt h]
  next h => rw [Nat.mod_eq_sub_mod (Nat.le_of_not_lt h)]

/-- The cycle that ticks leaves a full prescaler and one tick fewer to come. -/
theorem closedTicks_tick {P : Nat} (hP : 1 ≤ P) (n : Nat) : closedTicks P 1 (n + 1) = closedTicks P P n + 1 := by
  rw [closedTicks_full hP, closedTicks, if_neg (by omega), Nat.add_sub_cancel, Nat.add_comm]

theorem closedPrescaler_tick (P n : Nat) : closedPrescaler P 1 (n + 1) = closedPrescaler P P n := by
  rw [closedPrescaler_full, closedPrescaler, if_neg (by omega), Nat.add_sub_cancel]

/-- A cycle without a tick takes one from the prescaler and from the count. -/
theorem closedTicks_no_tick (P n : Nat) {p : Nat} (hp : 1 < p) : closedTicks P p (n + 1) = closedTicks P (p - 1) n := by
  have hlt : n + 1 < p ↔ n < p - 1 := by omega
  have hsub : n + 1 - p = n - (p - 1) := by omega
  simp only [closedTicks, hlt, hsub]

theorem closedPrescaler_no_tick (P n : Nat) {p : Nat} (hp : 1 < p) :
    closedPrescaler P p (n + 1) = closedPrescaler P (p - 1) n := by
  have hlt : n + 1 < p ↔ n < p - 1 := by omega
  have hsub : n + 1 - p = n - (p - 1) := by omega
  have hleft : p - (n + 1) = p - 1 - n := by omega
  simp only [closedPrescaler, hlt, hsub, hleft]

theorem closedUnderflows_zero (d : Nat) : closedUnderflows d 0 = 0 := if_pos (Nat.zero_le d)

/-- A tick that counts takes one from the counter and from the ticks. -/
theorem closedUnderflows_count {d : Nat} (hd : d ≠ 0) (k : Nat) :
    closedUnderflows d (k + 1) = closedUnderflows (d - 1) k := by
  have hle : k + 1 ≤ d ↔ k ≤ d - 1 := by omega
  have hsub : k + 1 - d - 1 = k - (d - 1) - 1 := by omega
  simp only [closedUnderflows, hle, hsub]

/-- A tick that underflows leaves the counter at 255. -/
theorem closedUnderflows_underflow (k : Nat) : closedUnderflows 0 (k + 1) = closedUnderflows 255 k + 1 := by
  unfold closedUnderflows
  by_cases hk : k ≤ 255
  · rw [if_neg (by omega), if_pos hk]
    omega
  · rw [if_neg (by omega), if_neg hk]
    omega

theorem closedData_zero {d : Nat} (hd : d < 256) : closedData d 0 = d := by
  unfold closedData
  omega

theorem closedData_count {d : Nat} (hd : d ≠ 0) (k : Nat) : closedData d (k + 1) = closedData (d - 1) k := by
  unfold closedData
  omega

theorem closedData_underflow (k : Nat) : closedData 0 (k + 1) = closedData 255 k := by
  unfold closedData
  omega

/-! ### The closed form of the timer -/

/-- The ticks of `n` cycles. -/
def Timer.ticks (c : Config) (t : Timer) (n : Nat) : Nat := closedTicks c.prescale t.prescaler.toNat n

/-- The underflows of `n` cycles. -/
def Timer.underflows (c : Config) (t : Timer) (n : Nat) : Nat := closedUnderflows t.data.toNat (t.ticks c n)

/-- The timer after `n` cycles by the closed form (R156). -/
def closedTimer (c : Config) (t : Timer) (n : Nat) : Timer :=
  { data := BitVec.ofNat 8 (closedData t.data.toNat (t.ticks c n))
    control := if 1 ≤ t.underflows c n then setTimerIf t.control else t.control
    prescaler := BitVec.ofNat 7 (closedPrescaler c.prescale t.prescaler.toNat n) }

theorem Timer.underflows_zero {c : Config} {t : Timer} (h : t.InRange c) : t.underflows c 0 = 0 := by
  rw [Timer.underflows, Timer.ticks, closedTicks_zero h.1, closedUnderflows_zero]

theorem closedTimer_zero {c : Config} {t : Timer} (h : t.InRange c) : closedTimer c t 0 = t := by
  rw [closedTimer, Timer.underflows_zero h, Timer.ticks, closedTicks_zero h.1, closedData_zero t.data.isLt,
    closedPrescaler_zero h.1, BitVec.ofNat_toNat, BitVec.setWidth_eq, BitVec.ofNat_toNat, BitVec.setWidth_eq]
  rfl

section
variable {c : Config} {t : Timer} (n : Nat)

/-- A value other than 1 that the prescaler may hold is above 1. -/
theorem Timer.InRange.one_lt (h : t.InRange c) (hp : t.prescaler ≠ 1) : 1 < t.prescaler.toNat :=
  Nat.lt_of_le_of_ne h.1 fun h1 => hp (BitVec.eq_of_toNat_eq h1.symm)

theorem toNat_ne_zero_of_ne_zero {w : Nat} {x : BitVec w} (h : x ≠ 0) : x.toNat ≠ 0 :=
  fun h0 => h (BitVec.eq_of_toNat_eq (h0.trans BitVec.toNat_zero.symm))

/-- The closed form from one cycle on, without a tick. -/
theorem closed_succ_of_no_tick (h : t.InRange c) (hp : t.prescaler ≠ 1) :
    closedTimer c t (n + 1) = closedTimer c (cycledTimer c t) n ∧
    t.underflows c (n + 1) = (cycledTimer c t).underflows c n := by
  have hlt := h.one_lt hp
  simp only [closedTimer, Timer.underflows, Timer.ticks, cycledTimer_of_no_tick c hp, toNat_sub_one h.1,
    closedTicks_no_tick _ _ hlt, closedPrescaler_no_tick _ _ hlt, and_self]

/-- The closed form from one cycle on, with a tick that counts. -/
theorem closed_succ_of_count (hp : t.prescaler = 1) (hd : t.data ≠ 0) :
    closedTimer c t (n + 1) = closedTimer c (cycledTimer c t) n ∧
    t.underflows c (n + 1) = (cycledTimer c t).underflows c n := by
  have hd0 := toNat_ne_zero_of_ne_zero hd
  have hp1 : t.prescaler.toNat = 1 := by rw [hp]; rfl
  simp only [closedTimer, Timer.underflows, Timer.ticks, cycledTimer_of_count c hp hd, hp1, toNat_prescaleConst,
    toNat_sub_one (Nat.one_le_iff_ne_zero.2 hd0), closedTicks_tick c.prescale_pos, closedPrescaler_tick,
    closedUnderflows_count hd0, closedData_count hd0, and_self]

/-- The closed form from one cycle on, with a tick that underflows. -/
theorem closed_succ_of_underflow (hp : t.prescaler = 1) (hd : t.data = 0) :
    closedTimer c t (n + 1) = closedTimer c (cycledTimer c t) n ∧
    t.underflows c (n + 1) = (cycledTimer c t).underflows c n + 1 := by
  have hd0 : t.data.toNat = 0 := by rw [hd]; rfl
  have hp1 : t.prescaler.toNat = 1 := by rw [hp]; rfl
  have hFF : (0xFF : Byte).toNat = 255 := rfl
  simp only [closedTimer, Timer.underflows, Timer.ticks, cycledTimer_of_underflow c hp hd, hp1, hd0, hFF,
    toNat_prescaleConst, closedTicks_tick c.prescale_pos, closedPrescaler_tick, closedUnderflows_underflow,
    closedData_underflow, setTimerIf_twice, ite_self, and_true, Nat.le_add_left, if_true]

end

/-- The closed form is the loop (R156), by induction on the cycles. -/
theorem cycledTimers_eq_closedTimer {c : Config} {t : Timer} (h : t.InRange c) (n : Nat) :
    cycledTimers c n t = closedTimer c t n := by
  induction n generalizing t with
  | zero => exact (closedTimer_zero h).symm
  | succ n ih =>
    rw [cycledTimers, ih h.cycled]
    by_cases hp : t.prescaler = 1
    · by_cases hd : t.data = 0
      · exact (closed_succ_of_underflow n hp hd).1.symm
      · exact (closed_succ_of_count n hp hd).1.symm
    · exact (closed_succ_of_no_tick n h hp).1.symm

/-- Each underflow reports once, unless `ID` is 1 (R155). -/
theorem advancedEvents_eq {c : Config} {t : Timer} (h : t.InRange c) (n : Nat) :
    advancedEvents c n t = if timerId t.control then [] else List.replicate (t.underflows c n) .irqTimer := by
  induction n generalizing t with
  | zero => rw [advancedEvents, Timer.underflows_zero h, List.replicate_zero, ite_self]
  | succ n ih =>
    rw [advancedEvents, ih h.cycled, cycledTimer_id]
    by_cases hp : t.prescaler = 1
    · by_cases hd : t.data = 0
      · rw [cycledEvents_of_underflow hp hd, (closed_succ_of_underflow n hp hd).2, List.replicate_succ]
        split <;> rfl
      · rw [cycledEvents_of_count hd, (closed_succ_of_count n hp hd).2, List.nil_append]
    · rw [cycledEvents_of_no_tick hp, (closed_succ_of_no_tick n h hp).2, List.nil_append]

/-- An advance by the closed form. -/
theorem exec_timerAdvance_closed {s : State} (n : Nat) (ha : s.attached = true) (h : PrescalerInRange s) :
    exec (.timerAdvance n) s = .next { s with
      response := none, cycles := s.cycles + n
      timer := closedTimer s.cfg s.timer n
      events := s.events ++
        if timerId s.timer.control then [] else List.replicate (s.timer.underflows s.cfg n) .irqTimer } := by
  rw [exec_timerAdvance_eq n ha, cycledTimers_eq_closedTimer h, advancedEvents_eq h]

/-- Settles O39. -/
theorem advanceClosedForm : Obligations.AdvanceClosedForm := by
  unfold Obligations.AdvanceClosedForm
  exact fun s n ha h => exec_timerAdvance_closed n ha h

/-! ### The period (R157) -/

/-- The first cycle that underflows (R157). -/
def Timer.firstUnderflow (c : Config) (t : Timer) : Nat := t.prescaler.toNat + t.data.toNat * c.prescale

/-- The first underflow falls on cycle `p + d * P`, and later ones every `256 * P` cycles. -/
theorem Timer.underflows_eq (c : Config) (t : Timer) (n : Nat) :
    t.underflows c n =
      if n < t.firstUnderflow c then 0 else 1 + (n - t.firstUnderflow c) / (256 * c.prescale) := by
  unfold Timer.underflows Timer.ticks closedTicks closedUnderflows Timer.firstUnderflow
  generalize t.prescaler.toNat = p, t.data.toNat = d, c.prescale = P, c.prescale_pos = hP
  by_cases hp : n < p
  · rw [if_pos hp, if_pos (Nat.zero_le d), if_pos (by omega)]
  · rw [if_neg hp]
    have hle : 1 + (n - p) / P ≤ d ↔ n < p + d * P := by
      rw [Nat.add_comm, Nat.add_one_le_iff, Nat.div_lt_iff_lt_mul hP]
      omega
    simp only [hle]
    split
    · rfl
    · rw [show 1 + (n - p) / P - d - 1 = (n - p) / P - d by omega, ← Nat.sub_mul_div, Nat.div_div_eq_div_mul,
        Nat.mul_comm P 256, Nat.mul_comm P d, Nat.sub_sub]

theorem Timer.one_le_underflows_iff (c : Config) (t : Timer) (n : Nat) :
    1 ≤ t.underflows c n ↔ t.firstUnderflow c ≤ n := by
  rw [Timer.underflows_eq]
  split
  next h => exact iff_of_false (by omega) (by omega)
  next h => exact iff_of_true (Nat.le_add_right 1 _) (Nat.le_of_not_lt h)

/-- Settles O40. -/
theorem underflowPeriods : Obligations.UnderflowPeriods := by
  unfold Obligations.UnderflowPeriods
  intro s n ha h hid
  refine ⟨_, exec_timerAdvance_closed n ha h, ?_⟩
  rw [Timer.underflows_eq, hid]
  rfl

/-- Settles O41: from a full prescaler `2 * P` cycles are two ticks, and one fewer is one. -/
theorem twoPeriodsSetTheFlag : Obligations.TwoPeriodsSetTheFlag := by
  unfold Obligations.TwoPeriodsSetTheFlag
  intro s ha hd hp hif
  have hP := s.cfg.prescale_pos
  have hp' : s.timer.prescaler = prescaleConst s.cfg := hp
  have hrange : PrescalerInRange s := by rw [PrescalerInRange, hp']; exact prescaleConst_inRange s.cfg
  have hticks : ∀ n, s.timer.ticks s.cfg n = n / s.cfg.prescale := fun n => by
    rw [Timer.ticks, hp', toNat_prescaleConst, closedTicks_full hP]
  have hd1 : s.timer.data.toNat = 1 := by rw [hd]; rfl
  refine ⟨⟨_, exec_timerAdvance_closed _ ha hrange, ?wrapped, ?set⟩,
    ⟨_, exec_timerAdvance_closed _ ha hrange, ?atZero, ?clear⟩⟩
  all_goals simp only [closedTimer, Timer.underflows, hticks, hd1]
  case wrapped => rw [Nat.mul_div_cancel _ hP]; rfl
  case set => rw [Nat.mul_div_cancel _ hP]; exact timerIf_setTimerIf _
  all_goals
    have hone : (2 * s.cfg.prescale - 1) / s.cfg.prescale = 1 := Nat.div_eq_of_lt_le (by omega) (by omega)
    rw [hone]
  case atZero => rfl
  case clear => exact hif

/-! ### The flag (R159) and the prescaler-reset bit (R158) -/

theorem toNat_pselConst_le (c : Config) : (pselConst c).toNat ≤ 15 :=
  Nat.le_trans (Nat.mod_le _ _) c.psel_le

theorem timerIf_timerControlStore (c : Config) (d : Byte) : timerIf (timerControlStore (pselConst c) d) = d.getLsbD 7 := by
  have hpsel : ∀ x : Byte, x.toNat ≤ 15 → x.getLsbD 7 = false := by decide
  simp only [timerIf, timerControlStore, BitVec.getLsbD_or, BitVec.getLsbD_and, hpsel _ (toNat_pselConst_le c),
    Bool.or_false]
  exact Bool.and_true _

/-- `IF` after `n` cycles: raised by an underflow, and never lowered. -/
theorem timerIf_closedTimer (c : Config) (t : Timer) (n : Nat) :
    timerIf (closedTimer c t n).control = (decide (t.firstUnderflow c ≤ n) || timerIf t.control) := by
  simp only [closedTimer, Timer.one_le_underflows_iff]
  split
  next h => rw [timerIf_setTimerIf, decide_eq_true h, Bool.true_or]
  next h => rw [decide_eq_false h, Bool.false_or]

theorem timerId_closedTimer (c : Config) (t : Timer) (n : Nat) :
    timerId (closedTimer c t n).control = timerId t.control := by
  simp only [closedTimer]
  split
  · exact timerId_setTimerIf _
  · rfl

/-- What `IF` is after a leaf operation (R159). -/
theorem timerIf_timerAfter {c : Config} {t : Timer} (h : t.InRange c) (j : Instr) :
    timerIf (timerAfter c t j).control = match j with
      | .timerWrControl d => d.getLsbD 7
      | .timerAdvance n => decide (t.firstUnderflow c ≤ n) || timerIf t.control
      | _ => timerIf t.control := by
  cases j with
  | timerWrControl d => exact timerIf_timerControlStore c d
  | timerAdvance n => simp only [timerAfter, cycledTimers_eq_closedTimer h, timerIf_closedTimer]
  | _ => rfl

theorem timerIf_raised {c : Config} {t : Timer} {j : Instr} (h : t.InRange c) (h0 : timerIf t.control = false)
    (h1 : timerIf (timerAfter c t j).control = true) :
    (∃ d, j = .timerWrControl d ∧ d.getLsbD 7 = true) ∨ ∃ n, j = .timerAdvance n ∧ t.firstUnderflow c ≤ n := by
  rw [timerIf_timerAfter h] at h1
  cases j with
  | timerWrControl d => exact .inl ⟨d, rfl, h1⟩
  | timerAdvance n =>
    simp only [h0, Bool.or_false, decide_eq_true_eq] at h1
    exact .inr ⟨n, rfl, h1⟩
  | _ => exact absurd (h0.symm.trans h1) Bool.false_ne_true

theorem timerIf_lowered {c : Config} {t : Timer} {j : Instr} (h : t.InRange c) (h0 : timerIf t.control = true)
    (h1 : timerIf (timerAfter c t j).control = false) : ∃ d, j = .timerWrControl d ∧ d.getLsbD 7 = false := by
  rw [timerIf_timerAfter h] at h1
  cases j with
  | timerWrControl d => exact ⟨d, rfl, h1⟩
  | timerAdvance n =>
    simp only [h0, Bool.or_true] at h1
    cases h1
  | _ => exact absurd (h1.symm.trans h0) Bool.false_ne_true

theorem timerIf_timerControlReset (c : Config) : timerIf (timerControlReset c) = true := by
  rw [timerIf, timerControlReset, BitVec.getLsbD_or]
  rfl

/-- Settles O42: an effect moves `IF` in the control write and the advance alone; RESET and TIMER.ATTACH set it. -/
theorem timerFlagLaw : Obligations.TimerFlagLaw := by
  unfold Obligations.TimerFlagLaw
  intro i s t hrange h
  rcases exec_next_cases h with ⟨-, rfl⟩ | ⟨-, hatt⟩
  · refine ⟨fun h0 h1 => ?_, fun h0 h1 => timerIf_lowered hrange h0 h1⟩
    rcases timerIf_raised hrange h0 h1 with hwrite | ⟨n, hj, hn⟩
    · exact .inr (.inr (.inl hwrite))
    · exact .inr (.inr (.inr ⟨n, leafOf_eq_advance hj, hn⟩))
  · have hset := timerIf_timerControlReset s.cfg
    cases hatt with
    | uartAttach =>
      exact ⟨fun h0 h1 => absurd (h0.symm.trans h1) Bool.false_ne_true,
        fun h0 h1 => absurd (h1.symm.trans h0) Bool.false_ne_true⟩
    | reset => exact ⟨fun _ _ => .inl rfl, fun _ h1 => absurd (h1.symm.trans hset) Bool.false_ne_true⟩
    | timerAttach => exact ⟨fun _ _ => .inr (.inl rfl), fun _ h1 => absurd (h1.symm.trans hset) Bool.false_ne_true⟩

theorem timerWriteControl_twice (d : Byte) (s : State) :
    timerWriteControl d (timerWriteControl d s) = timerWriteControl d s := by
  cases h : timerPrst d <;> simp only [timerWriteControl, h] <;> rfl

/-- A control write reads back as its high nibble and the low three bits of the constant (R152, R154). -/
theorem timerControlRead_store (c : Config) (d : Byte) :
    timerControlRead (timerControlStore (pselConst c) d) = (d &&& 0xF0) ||| (pselConst c &&& 0x07) := by
  have hpsel : ∀ x : Byte, x.toNat ≤ 15 → x &&& 0xF7 = x &&& 0x07 := by decide
  have hd : d &&& 0xF0 &&& 0xF7 = d &&& 0xF0 := BitVec.and_assoc _ _ _
  rw [timerControlRead, timerControlStore, BitVec.and_or_distrib_right, hd, hpsel _ (toNat_pselConst_le c)]

/-- Settles O43. -/
theorem prescalerResetLaw : Obligations.PrescalerResetLaw := by
  unfold Obligations.PrescalerResetLaw
  intro s d ha
  have hwrite : ∀ u : State, u.attached = true → exec (.timerWrControl d) u = .next (timerWriteControl d u) :=
    fun u hu => exec_of_performs hu (.timerWrControl d)
  refine ⟨timerWriteControl d s, hwrite s ha, ?twice, fun hd => if_pos hd, ?readBack⟩
  case twice => exact (hwrite (timerWriteControl d s) ha).trans (congrArg _ (timerWriteControl_twice d s))
  case readBack =>
    rw [exec_of_performs (s := timerWriteControl d s) ha .timerRdControl, timerReadControl]
    exact congrArg (fun v => Host.Outcome.next ((timerWriteControl d s).respond v)) (timerControlRead_store s.cfg d)

/-! ### Reporting enters no trap (R187) -/

/-- Settles O44: a receive leaves `RIE` and an advance leaves `ID`, so each condition is reported again; the two advances are
one, with two underflows. -/
theorem reportingEntersNoTrap : Obligations.ReportingEntersNoTrap := by
  unfold Obligations.ReportingEntersNoTrap
  refine ⟨fun s b c ha hrie => ?receives, fun s ha hrange hid => ?underflows⟩
  case receives =>
    refine ⟨effect s (.uartReceive b), effect (effect s (.uartReceive b)) (.uartReceive c), exec_eq_effect ha rfl rfl,
      exec_eq_effect ha rfl rfl, ?_, rfl, rfl, rfl, rfl, rfl, rfl⟩
    have hreport : ∀ (u : State) (x : Byte), uartRie u.uart.control = true →
        eventsOf u (.uartReceive x) = [.irqUartRx] := fun u x hu => if_pos hu
    rw [effect_events, effect_events, hreport s b hrie, hreport (effect s (.uartReceive b)) c hrie, List.append_assoc]
    rfl
  case underflows =>
    have hevents : ∀ n, (effect s (.timerAdvance n)).events =
        s.events ++ List.replicate (s.timer.underflows s.cfg n) .irqTimer := fun n => by
      rw [effect_events, eventsOf, advancedEvents_eq hrange, hid]
      rfl
    have htimer : ∀ n, (effect s (.timerAdvance n)).timer = closedTimer s.cfg s.timer n :=
      fun n => cycledTimers_eq_closedTimer hrange n
    have hone : s.timer.underflows s.cfg (s.timer.firstUnderflow s.cfg) = 1 := by
      rw [Timer.underflows_eq, if_neg (Nat.lt_irrefl _), Nat.sub_self, Nat.zero_div]
    have htwo : s.timer.underflows s.cfg (s.timer.firstUnderflow s.cfg + 256 * s.cfg.prescale) = 2 := by
      have hP := s.cfg.prescale_pos
      rw [Timer.underflows_eq, if_neg (by omega), Nat.add_sub_cancel_left, Nat.div_self (by omega)]
    refine ⟨effect s (.timerAdvance (s.timer.firstUnderflow s.cfg)),
      effect s (.timerAdvance (s.timer.firstUnderflow s.cfg + 256 * s.cfg.prescale)), exec_eq_effect ha rfl rfl, ?again,
      ?flag, ?first, ?second, ?notMasked, rfl, rfl, rfl⟩
    case again =>
      rw [← effect_timerAdvance_add]
      exact exec_eq_effect ha rfl rfl
    case flag => rw [htimer, timerIf_closedTimer, decide_eq_true (Nat.le_refl _), Bool.true_or]
    case first => rw [hevents, hone]; rfl
    case second => rw [hevents, hevents, hone, htwo, List.append_assoc]; rfl
    case notMasked => rw [htimer, timerId_closedTimer, hid]

end Sys2Proof.Machine
end

section
/-!
PROOFS. The bus (spec/40_bus_dispatcher.md): the two dispatches, the read multiplexer, the one side effect of a read, the
isolation of the owners, and the bytes no transaction reaches (rules R100, R101, R106 to R108; spec/20_memory.md rule R65).
-/

namespace Sys2Proof.Machine

/-! ### What a dispatched operation leaves -/

section
variable (a : Addr) (d : Byte)

/-- An operation of another owner leaves the serial registers. -/
theorem uartAfter_selected (u : Uart) {sel : Select} (h : ∀ off, sel ≠ .uart off) :
    uartAfter u (selectedRead a sel) = u ∧ uartAfter u (selectedWrite a d sel) = u := by
  cases sel with
  | uart off => exact absurd rfl (h off)
  | timer off => rcases offset_timer_cases off with rfl | rfl <;> exact ⟨rfl, rfl⟩
  | pin | mem => exact ⟨rfl, rfl⟩

/-- An operation of another owner leaves the timer. -/
theorem timerAfter_selected (c : Config) (t : Timer) {sel : Select} (h : ∀ off, sel ≠ .timer off) :
    timerAfter c t (selectedRead a sel) = t ∧ timerAfter c t (selectedWrite a d sel) = t := by
  cases sel with
  | timer off => exact absurd rfl (h off)
  | uart off => rcases offset_uart_cases off with rfl | rfl | rfl | rfl <;> exact ⟨rfl, rfl⟩
  | pin | mem => exact ⟨rfl, rfl⟩

/-- An operation of another owner leaves memory. -/
theorem memAfter_selectedWrite (s : State) {sel : Select} (h : sel ≠ .mem) : memAfter s (selectedWrite a d sel) = s.mem := by
  cases sel with
  | mem => exact absurd rfl h
  | uart off => rcases offset_uart_cases off with rfl | rfl | rfl | rfl <;> rfl
  | timer off => rcases offset_timer_cases off with rfl | rfl <;> rfl
  | pin => rfl

/-- No transaction counts cycles. -/
theorem cyclesOf_selected (sel : Select) :
    cyclesOf (selectedRead a sel) = 0 ∧ cyclesOf (selectedWrite a d sel) = 0 := by
  cases sel with
  | uart off => rcases offset_uart_cases off with rfl | rfl | rfl | rfl <;> exact ⟨rfl, rfl⟩
  | timer off => rcases offset_timer_cases off with rfl | rfl <;> exact ⟨rfl, rfl⟩
  | pin | mem => exact ⟨rfl, rfl⟩

/-- What a write emits: its own `TX` if the serial device is selected, its own `TRACE` if the sentinel is, else nothing. -/
theorem eventsOf_selectedWrite (s : State) (sel : Select) :
    eventsOf s (selectedWrite a d sel) = [] ∨
    (∃ off, sel = .uart off) ∧ eventsOf s (selectedWrite a d sel) = [.tx d] ∨
    sel = .pin ∧ eventsOf s (selectedWrite a d sel) = [.trace s.cycles (tracedBit d)] := by
  cases sel with
  | uart off =>
    rcases offset_uart_cases off with rfl | rfl | rfl | rfl
    · exact .inl rfl
    · exact .inr (.inl ⟨⟨1, rfl⟩, rfl⟩)
    · exact .inl rfl
    · exact .inl rfl
  | timer off => rcases offset_timer_cases off with rfl | rfl <;> exact .inl rfl
  | pin => exact .inr (.inr ⟨rfl, rfl⟩)
  | mem => exact .inl rfl

end

/-! ### The two dispatches (R100, R101) -/

theorem exec_busRd_eq_effect {s : State} (a : Addr) (ha : s.attached = true) :
    exec (.busRd a) s = .next (effect s (selectedRead a (s.cfg.select a))) := by
  rw [exec_eq_effect ha rfl rfl, leafOf_busRd]

theorem exec_busWr_eq_effect {s : State} (a : Addr) (d : Byte) (ha : s.attached = true) :
    exec (.busWr a d) s = .next (effect s (selectedWrite a d (s.cfg.select a))) := by
  rw [exec_eq_effect ha rfl rfl, leafOf_busWr]

theorem isLeafRead_selectedRead (c : Config) (a : Addr) : isLeafRead (selectedRead a (c.select a)) = true := by
  rw [← leafOf_busRd]
  exact isLeafRead_leafOf_busRd c a

theorem exists_answerOf_leafRead {j : Instr} (h : isLeafRead j = true) (s : State) : ∃ v, answerOf s j = some v := by
  cases j with
  | pinRd | uartRdControl | uartRdTxdata | uartRdStatus | uartRdRxdata | timerRdData | timerRdControl | memRd =>
    exact ⟨_, rfl⟩
  | _ => cases h

/-- A read but that of `rx_data` changes the response and nothing else. -/
theorem effect_leafRead {j : Instr} (h : isLeafRead j = true) (hne : j ≠ .uartRdRxdata) (s : State) :
    effect s j = { s with response := answerOf s j } := by
  cases j with
  | uartRdRxdata => exact absurd rfl hne
  | pinRd | uartRdControl | uartRdTxdata | uartRdStatus | timerRdData | timerRdControl | memRd =>
    simp only [effect, eventsOf, List.append_nil]
    rfl
  | _ => cases h

/-- The read of `rx_data` clears `RDA` beside its answer (R124). -/
theorem effect_uartRdRxdata (s : State) :
    effect s .uartRdRxdata =
      { s with response := some s.uart.rxData, uart := { s.uart with status := clearRda s.uart.status } } := by
  simp only [effect, eventsOf, List.append_nil]
  rfl

/-- Settles O48. -/
theorem busReadDispatch : Obligations.BusReadDispatch := by
  unfold Obligations.BusReadDispatch
  intro s a ha
  have hread := isLeafRead_selectedRead s.cfg a
  have hexec := exec_busRd_eq_effect a ha
  obtain ⟨v, hv⟩ := exists_answerOf_leafRead hread s
  refine ⟨_, v, hexec, (exec_busRd_selected s a).symm.trans hexec, hv, ?_, fun hne => ?_⟩
  · rw [effect_events, eventsOf_leafRead hread, List.append_nil]
  · rw [effect_leafRead hread hne, hv]

/-- Settles O49. -/
theorem busWriteDispatch : Obligations.BusWriteDispatch := by
  unfold Obligations.BusWriteDispatch
  intro s a d ha
  have hexec := exec_busWr_eq_effect a d ha
  refine ⟨_, eventsOf s (selectedWrite a d (s.cfg.select a)), hexec, (exec_busWr_selected s a d).symm.trans hexec,
    ?cycles, rfl, ?noIrqRx, ?noIrqTimer, fun hpin c b => ?noTrace, fun hmem => memAfter_selectedWrite a d s hmem,
    fun huart => ⟨(uartAfter_selected a d s.uart huart).2, fun b => ?noTx⟩,
    fun htimer => (timerAfter_selected a d s.cfg s.timer htimer).2⟩
  case cycles => rw [effect_cycles, (cyclesOf_selected a d _).2, Nat.add_zero]
  all_goals rcases eventsOf_selectedWrite a d s (s.cfg.select a) with h | ⟨hsel, h⟩ | ⟨hsel, h⟩ <;> rw [h]
  case noTrace.inr.inr => exact absurd hsel hpin
  case noTx.inr.inl =>
    obtain ⟨off, hoff⟩ := hsel
    exact absurd hoff (huart off)
  all_goals simp

/-! ### The read multiplexer (R106) -/

/-- Settles O50: the chain of tests is the address decoder's, one select for each branch. -/
theorem readMultiplexer : Obligations.ReadMultiplexer := by
  unfold Obligations.ReadMultiplexer
  intro s a ha
  refine ⟨_, exec_busRd_eq_effect a ha, ?_⟩
  have huart := fun off => (s.cfg.select_eq_uart a off).2
  have htimer := fun off => (s.cfg.select_eq_timer a off).2
  rw [effect_response]
  by_cases hpin : a = pinAddr
  · have h0 : a.toNat = 0 := congrArg BitVec.toNat hpin
    rw [(s.cfg.select_eq_pin a).2 hpin, if_pos h0]
    rfl
  rw [if_neg (toNat_ne_zero_of_ne_pinAddr hpin)]
  split
  next h0 => rw [huart 0 ⟨hpin, h0⟩]; rfl
  split
  next h1 => rw [huart 1 ⟨hpin, h1⟩]; rfl
  split
  next h2 => rw [huart 2 ⟨hpin, h2⟩]; rfl
  split
  next h3 => rw [huart 3 ⟨hpin, h3⟩]; rfl
  split
  next h4 => rw [htimer 0 ⟨hpin, h4⟩]; rfl
  split
  next h5 => rw [htimer 1 ⟨hpin, h5⟩]; rfl
  next h0 h1 h2 h3 h4 h5 =>
    have hplain : s.cfg.isPlain a = true := by
      rw [s.cfg.isPlain_iff]
      simp only [uartSpan, timerSpan]
      exact ⟨hpin, by omega, by omega⟩
    rw [(s.cfg.select_eq_mem a).2 hplain]
    rfl

/-! ### The one side effect of a read (R65) -/

/-- The read of `rx_data` is selected at one address. -/
theorem selectedRead_eq_uartRdRxdata (c : Config) (a : Addr) :
    selectedRead a (c.select a) = .uartRdRxdata ↔ a.toNat = c.uartBase + 3 := by
  constructor
  · intro h
    cases hsel : c.select a with
    | uart off =>
      rw [hsel] at h
      rcases offset_uart_cases off with rfl | rfl | rfl | rfl
      case inr.inr.inr => exact (c.select_uart a 3 hsel).1
      all_goals cases h
    | timer off =>
      rw [hsel] at h
      rcases offset_timer_cases off with rfl | rfl <;> cases h
    | pin | mem => rw [hsel] at h; cases h
  · intro h
    have hpin : a ≠ pinAddr := by
      rintro rfl
      exact absurd h (by simp [pinAddr])
    rw [(c.select_eq_uart a 3).2 ⟨hpin, h⟩]
    rfl

/-- A read answers the same byte again. -/
theorem answerOf_effect_leafRead {j : Instr} (h : isLeafRead j = true) (s : State) :
    answerOf (effect s j) j = answerOf s j := by
  cases j with
  | pinRd | uartRdControl | uartRdTxdata | uartRdStatus | uartRdRxdata | timerRdData | timerRdControl | memRd => rfl
  | _ => cases h

/-- Settles O51. -/
theorem readSideEffects : Obligations.ReadSideEffects := by
  unfold Obligations.ReadSideEffects
  intro s a ha
  have hread := isLeafRead_selectedRead s.cfg a
  have hiff := selectedRead_eq_uartRdRxdata s.cfg a
  refine ⟨_, _, exec_busRd_eq_effect a ha, exec_busRd_eq_effect (s := effect s _) a ha,
    answerOf_effect_leafRead hread s,
    fun hne => effect_leafRead hread (fun h => hne (hiff.1 h)) s, fun heq => ?_⟩
  rw [hiff.2 heq, effect_uartRdRxdata]
  refine ⟨rfl, fun hrda hsame => ?_⟩
  have hstatus : clearRda s.uart.status = s.uart.status := congrArg Uart.status hsame
  have hclear := uartRda_clearRda s.uart.status
  rw [hstatus] at hclear
  exact Bool.false_ne_true (hclear.symm.trans hrda)

/-! ### Isolation (R107) -/

/-- A transaction hands over to the read or to the write its select names. -/
theorem leafOf_transaction {c : Config} {i : Instr} {a : Addr} (hi : i = .busRd a ∨ ∃ d, i = .busWr a d) :
    leafOf c i = selectedRead a (c.select a) ∨ ∃ d, leafOf c i = selectedWrite a d (c.select a) := by
  rcases hi with rfl | ⟨d, rfl⟩
  · exact .inl (leafOf_busRd c a)
  · exact .inr ⟨d, leafOf_busWr c a d⟩

/-- A memory write over the bus is a write of plain memory. -/
theorem isPlain_of_leafOf_busWr {c : Config} {a b : Addr} {d e : Byte} (h : leafOf c (.busWr a d) = .memWr b e) :
    b = a ∧ c.isPlain a = true := by
  have hab : b = a := by
    rcases leafOf_eq_memWr h with hi | hi
    · injection hi with ha _; exact ha.symm
    · cases hi
  have hwf := leafOf_wellFormed (c := c) (i := .busWr a d) rfl
  rw [h, hab] at hwf
  exact ⟨hab, hwf⟩

theorem leafOf_busRd_ne_memWr {c : Config} {a b : Addr} {d : Byte} : leafOf c (.busRd a) ≠ .memWr b d := by
  intro h
  rcases leafOf_eq_memWr h with hi | hi <;> cases hi

/-- Settles O52: the select names one owner, and the fields of the others stand. -/
theorem busIsolation : Obligations.BusIsolation := by
  unfold Obligations.BusIsolation
  intro s t i a hi h
  have hattach : isAttach i = false := by rcases hi with rfl | ⟨d, rfl⟩ <;> rfl
  obtain rfl := eq_effect_of_exec hattach h
  have huart : (∀ off, s.cfg.select a ≠ .uart off) → uartAfter s.uart (leafOf s.cfg i) = s.uart := by
    intro hsel
    rcases leafOf_transaction (c := s.cfg) hi with hj | ⟨d, hj⟩ <;> rw [hj]
    · exact (uartAfter_selected a 0 s.uart hsel).1
    · exact (uartAfter_selected a d s.uart hsel).2
  have htimer : (∀ off, s.cfg.select a ≠ .timer off) → timerAfter s.cfg s.timer (leafOf s.cfg i) = s.timer := by
    intro hsel
    rcases leafOf_transaction (c := s.cfg) hi with hj | ⟨d, hj⟩ <;> rw [hj]
    · exact (timerAfter_selected a 0 s.cfg s.timer hsel).1
    · exact (timerAfter_selected a d s.cfg s.timer hsel).2
  refine ⟨?cycles, rfl, rfl, rfl, fun hp => ?plain, fun hkeep b => ?memory, fun d hd b hb => ?otherBytes,
    fun h0 hin => ?inUart, fun h0 hin => ?inTimer, fun h0 => ?sentinel⟩
  case cycles =>
    have hcycles : cyclesOf (leafOf s.cfg i) = 0 := by
      rcases leafOf_transaction (c := s.cfg) hi with hj | ⟨d, hj⟩ <;> rw [hj]
      · exact (cyclesOf_selected a 0 _).1
      · exact (cyclesOf_selected a d _).2
    rw [effect_cycles, hcycles, Nat.add_zero]
  case plain =>
    have hsel := (s.cfg.select_eq_mem a).2 hp
    exact ⟨huart (by simp [hsel]), htimer (by simp [hsel])⟩
  case memory =>
    refine memRead_effect_of_ne (fun e he => ?_) s
    rcases hi with rfl | ⟨d, rfl⟩
    · exact leafOf_busRd_ne_memWr he
    · obtain ⟨-, hp⟩ := isPlain_of_leafOf_busWr he
      rcases hkeep with hrd | hnp
      · cases hrd
      · exact Bool.false_ne_true (hnp.symm.trans hp)
  case otherBytes =>
    subst hd
    exact memRead_effect_of_ne (fun e he => hb (isPlain_of_leafOf_busWr he).1) s
  case inUart =>
    obtain ⟨off, hsel⟩ := (s.cfg.exists_select_eq_uart a).2 ⟨h0, of_decide_eq_true hin⟩
    exact htimer (by simp [hsel])
  case inTimer =>
    obtain ⟨off, hsel⟩ := (s.cfg.exists_select_eq_timer a).2 ⟨h0, of_decide_eq_true hin⟩
    exact huart (by simp [hsel])
  case sentinel =>
    have hsel := (s.cfg.select_eq_pin a).2 h0
    exact ⟨huart (by simp [hsel]), htimer (by simp [hsel])⟩

/-! ### Two runs beside each other -/

/-- What every operation keeps between two states of one configuration, a run keeps. -/
theorem effects_keep_relation {R : State → State → Prop} {is : List Instr} {s s' : State} (hcfg : s'.cfg = s.cfg)
    (hstep : ∀ i ∈ is, ∀ u u' : State, u.cfg = s.cfg → u'.cfg = s.cfg → R u u' →
      R (effect u (leafOf s.cfg i)) (effect u' (leafOf s.cfg i))) (h : R s s') : R (effects is s) (effects is s') := by
  induction is generalizing s s' with
  | nil => exact h
  | cons i is ih =>
    obtain ⟨hi, hrest⟩ := List.forall_mem_cons.1 hstep
    rw [effects_cons, effects_cons, hcfg]
    exact ih hcfg hrest (hi s s' rfl hcfg h)

/-! ### Shadowed bytes (R108) -/

/-- A well-formed operation reads no shadowed byte. -/
theorem answerOf_congr {s s' : State} (h : SameButShadowed s s') {j : Instr} (hwf : j.wellFormed s.cfg = true) :
    answerOf s j = answerOf s' j := by
  obtain ⟨hcfg, huart, htimer, -, -, -, -, -, hmem⟩ := h
  cases j with
  | memRd a => exact congrArg some (hmem a hwf)
  | _ => simp only [answerOf, hcfg, huart, htimer]

/-- A well-formed operation writes no shadowed byte. -/
theorem memRead_effect_shadowed {s : State} {j : Instr} (hwf : j.wellFormed s.cfg = true) {a : Addr}
    (hp : s.cfg.isPlain a = false) : (effect s j).memRead a = s.memRead a := by
  refine memRead_effect_of_ne (fun d hd => ?_) s
  rw [hd] at hwf
  exact Bool.false_ne_true (hp.symm.trans hwf)

/-- One operation keeps two states alike but for their shadowed bytes. -/
theorem sameButShadowed_effect {s s' : State} (h : SameButShadowed s s') {j : Instr} (hwf : j.wellFormed s.cfg = true) :
    SameButShadowed (effect s j) (effect s' j) := by
  have hanswer := answerOf_congr h hwf
  obtain ⟨hcfg, huart, htimer, hcycles, hattached, hinputs, -, hevents, hmem⟩ := h
  refine ⟨hcfg, ?_, ?_, ?_, hattached, hinputs, hanswer, ?_, fun a ha => ?_⟩
  · rw [effect_uart, effect_uart, huart]
  · rw [effect_timer, effect_timer, hcfg, htimer]
  · rw [effect_cycles, effect_cycles, hcycles]
  · have hemit : eventsOf s j = eventsOf s' j := by
      cases j <;> simp only [eventsOf, hcfg, huart, htimer, hcycles]
    rw [effect_events, effect_events, hevents, hemit]
  · rw [memRead_effect, memRead_effect, hmem a ha]

/-- Settles O53. -/
theorem shadowedBytesUnobservable : Obligations.ShadowedBytesUnobservable := by
  unfold Obligations.ShadowedBytesUnobservable
  intro s s' is ha h hrun
  obtain ⟨hcfg, -, -, -, hattached, -⟩ := id h
  have hwf : ∀ i ∈ is, (leafOf s.cfg i).wellFormed s.cfg = true :=
    fun i hi => leafOf_wellFormed (wellFormed_of_isStimulus s.cfg (hrun i hi))
  have hkept : ∀ {u : State} {a : Addr}, u.cfg = s.cfg → s.cfg.isPlain a = false →
      (effects is u).memRead a = u.memRead a := by
    intro u a hu hp
    refine effects_keeps (P := fun v => v.memRead a = u.memRead a) (fun i hi v hv hmem => ?_) rfl
    rw [hu] at hv ⊢
    exact (memRead_effect_shadowed (hv ▸ hwf i hi) (hv ▸ hp)).trans hmem
  refine ⟨_, _, execAll_stimuli ha hrun, execAll_stimuli (hattached ▸ ha) hrun, ?_,
    fun a hp => ⟨hkept rfl hp, hkept hcfg.symm hp⟩⟩
  exact effects_keep_relation hcfg.symm
    (fun i hi u u' hu _ hR => sameButShadowed_effect hR (hu ▸ hwf i hi)) h

end Sys2Proof.Machine
end

section
/-!
PROOFS. The outputs (spec/60_exceptions.md rules R183 and R186): the events of an operation, what they do not depend on (rules
R134 and R160), and the cycle count (rules R41 and R161).
-/

namespace Sys2Proof.Machine

/-! ### The events of one operation -/

/-- An advance emits `IRQ_TIMER`s only. -/
theorem eq_irqTimer_of_mem_advancedEvents {c : Config} {n : Nat} {t : Timer} {e : Event}
    (he : e ∈ advancedEvents c n t) : e = .irqTimer := by
  induction n generalizing t with
  | zero => cases he
  | succ n ih =>
    rw [advancedEvents, List.mem_append] at he
    rcases he with he | he
    · rw [cycledEvents] at he
      split at he
      · exact List.mem_singleton.1 he
      · cases he
    · exact ih he

/-- An advance emits nothing if `ID` is 1. -/
theorem advancedEvents_of_id (c : Config) (n : Nat) {t : Timer} (h : timerId t.control = true) :
    advancedEvents c n t = [] := by
  induction n generalizing t with
  | zero => rfl
  | succ n ih =>
    have hnone : cycledEvents t = [] := if_neg fun hc => absurd (h.symm.trans hc.2.2) (by decide)
    rw [advancedEvents, hnone, ih ((cycledTimer_id c t).trans h), List.nil_append]

/-- Settles O55: an effect emits `eventsOf`, and RESET and its parts emit nothing. -/
theorem eventsOfOperations : Obligations.EventsOfOperations := by
  unfold Obligations.EventsOfOperations
  intro i s t h
  rcases exec_next_cases h with ⟨-, rfl⟩ | ⟨-, hatt⟩
  · refine ⟨eventsOf s (leafOf s.cfg i), rfl, ?_⟩
    generalize leafOf s.cfg i = j
    cases j with
    | timerAdvance n =>
      exact ⟨fun e he => eq_irqTimer_of_mem_advancedEvents he, fun hid => advancedEvents_of_id s.cfg n hid⟩
    | _ => rfl
  · cases hatt <;> exact ⟨[], (List.append_nil _).symm, rfl⟩

/-! ### What the events do not depend on (R134, R160) -/

theorem uartRie_uartAfter (u : Uart) (j : Instr) :
    uartRie (uartAfter u j).control = match j with
      | .uartWrControl d => uartRie d
      | _ => uartRie u.control := by
  cases j with
  | uartWrControl d =>
    simp only [uartAfter]
    split
    · exact uartRie_masterReset d
    · rfl
  | _ => rfl

/-- Two timers that agree on `ID`, the counter and the prescaler. -/
def Timer.SameForEvents (t t' : Timer) : Prop :=
  timerId t.control = timerId t'.control ∧ t.data = t'.data ∧ t.prescaler = t'.prescaler

section
variable {t t' : Timer}

theorem Timer.SameForEvents.cycled (h : t.SameForEvents t') (c : Config) :
    (cycledTimer c t).SameForEvents (cycledTimer c t') ∧ cycledEvents t = cycledEvents t' := by
  obtain ⟨hid, hdata, hpre⟩ := h
  refine ⟨⟨?_, ?_, ?_⟩, ?_⟩
  · rw [cycledTimer_id, cycledTimer_id, hid]
  · simp only [cycledTimer, hdata, hpre, apply_ite Timer.data]
  · simp only [cycledTimer, hdata, hpre, apply_ite Timer.prescaler]
  · simp only [cycledEvents, hid, hdata, hpre]

theorem Timer.SameForEvents.advanced (h : t.SameForEvents t') (c : Config) (n : Nat) :
    (cycledTimers c n t).SameForEvents (cycledTimers c n t') ∧ advancedEvents c n t = advancedEvents c n t' := by
  induction n generalizing t t' with
  | zero => exact ⟨h, rfl⟩
  | succ n ih =>
    obtain ⟨hcycled, hevents⟩ := h.cycled c
    obtain ⟨htimer, hrest⟩ := ih hcycled
    exact ⟨htimer, by rw [advancedEvents, advancedEvents, hevents, hrest]⟩

theorem Timer.SameForEvents.after (h : t.SameForEvents t') (c : Config) (j : Instr) :
    (timerAfter c t j).SameForEvents (timerAfter c t' j) := by
  obtain ⟨hid, hdata, hpre⟩ := id h
  cases j with
  | timerWrData d => exact ⟨hid, rfl, hpre⟩
  | timerWrControl d => exact ⟨rfl, hdata, by simp only [timerAfter, hpre]⟩
  | timerAdvance n => exact (h.advanced c n).1
  | _ => exact h

end

/-- One operation keeps two states alike in what the events depend on. -/
theorem sameForEvents_effect {s s' : State} (h : SameForEvents s s') (j : Instr) :
    SameForEvents (effect s j) (effect s' j) := by
  obtain ⟨hcfg, hattached, hrie, hid, hdata, hpre, hcycles, hevents⟩ := h
  have htimer : s.timer.SameForEvents s'.timer := ⟨hid, hdata, hpre⟩
  obtain ⟨hid', hdata', hpre'⟩ := htimer.after s'.cfg j
  have hemit : eventsOf s j = eventsOf s' j := by
    cases j with
    | timerAdvance n => simp only [eventsOf, hcfg, (htimer.advanced s'.cfg n).2]
    | _ => simp only [eventsOf, hrie, hcycles]
  refine ⟨hcfg, hattached, ?_, ?_, ?_, ?_, ?_, ?_⟩
  · rw [effect_uart, effect_uart, uartRie_uartAfter, uartRie_uartAfter, hrie]
  · rw [effect_timer, effect_timer, hcfg, hid']
  · rw [effect_timer, effect_timer, hcfg, hdata']
  · rw [effect_timer, effect_timer, hcfg, hpre']
  · rw [effect_cycles, effect_cycles, hcycles]
  · rw [effect_events, effect_events, hevents, hemit]

/-- Settles O54. -/
theorem storageBitsHaveNoBehaviour : Obligations.StorageBitsHaveNoBehaviour := by
  unfold Obligations.StorageBitsHaveNoBehaviour
  intro s s' is ha h hrun
  obtain ⟨hcfg, hattached, -⟩ := id h
  exact ⟨_, _, execAll_stimuli ha hrun, execAll_stimuli (hattached ▸ ha) hrun,
    effects_keep_relation hcfg.symm (fun _ _ _ _ _ _ hR => sameForEvents_effect hR _) h⟩

/-! ### The cycle count (R41, R161) -/

theorem advSum_cons (i : Instr) (is : List Instr) : advSum (i :: is) = cyclesOf i + advSum is := by
  cases i with
  | timerAdvance n => rfl
  | _ => exact (Nat.zero_add _).symm

theorem cyclesOf_leafOf (c : Config) (i : Instr) : cyclesOf (leafOf c i) = cyclesOf i := by
  cases i with
  | busRd a => rw [leafOf_busRd]; exact (cyclesOf_selected a 0 _).1
  | busWr a d => rw [leafOf_busWr]; exact (cyclesOf_selected a d _).2
  | _ => rfl

theorem effects_cycles (is : List Instr) (s : State) : (effects is s).cycles = s.cycles + advSum is := by
  induction is generalizing s with
  | nil => rfl
  | cons i is ih => rw [effects_cons, ih, effect_cycles, cyclesOf_leafOf, advSum_cons, Nat.add_assoc]

/-- Settles O56. -/
theorem cyclesCountAdvances : Obligations.CyclesCountAdvances := by
  unfold Obligations.CyclesCountAdvances
  exact fun s is ha hrun => ⟨_, execAll_stimuli ha hrun, effects_cycles is s⟩

end Sys2Proof.Machine
end

section
/-!
PROOFS. The frames of the operations, and who writes each register (spec/10_state.md rules R22, R29 and R31).
-/

namespace Sys2Proof.Machine

/-! ### Reads and the dispatcher's own writes -/

theorem leafOf_leafRead {i : Instr} (h : isLeafRead i = true) (c : Config) : leafOf c i = i ∧ isAttach i = false := by
  cases i with
  | pinRd | uartRdControl | uartRdTxdata | uartRdStatus | uartRdRxdata | timerRdData | timerRdControl | memRd =>
    exact ⟨rfl, rfl⟩
  | _ => cases h

/-- A read but that of `rx_data` changes the response and nothing else. -/
theorem eq_respond_of_exec_leafRead {i : Instr} {s t : State} (hread : isLeafRead i = true) (hne : i ≠ .uartRdRxdata)
    (h : exec i s = .next t) : t = { s with response := answerOf s i } := by
  obtain ⟨hleaf, hattach⟩ := leafOf_leafRead hread s.cfg
  rw [eq_effect_of_exec hattach h, hleaf, effect_leafRead hread hne]

/-- Settles O57. -/
theorem dispatcherAndReadsFrame : Obligations.DispatcherAndReadsFrame := by
  unfold Obligations.DispatcherAndReadsFrame
  refine ⟨fun i s t a hi h => ?reads, fun s t a d h => ?memWr, fun s t d h => ?traceWr⟩
  case reads =>
    have hread : isLeafRead i = true ∧ i ≠ .uartRdRxdata := by
      simp only [List.mem_cons, List.not_mem_nil, or_false] at hi
      rcases hi with rfl | rfl | rfl | rfl | rfl | rfl | rfl <;> exact ⟨rfl, Instr.noConfusion⟩
    obtain rfl := eq_respond_of_exec_leafRead hread.1 hread.2 h
    exact ⟨rfl, rfl, rfl, rfl, rfl, rfl, rfl, fun _ => rfl⟩
  case memWr =>
    obtain rfl := eq_effect_of_exec rfl h
    exact ⟨rfl, rfl, rfl, rfl, rfl, rfl, List.append_nil _, fun b hb => (memRead_memWrite s a b d).trans (if_neg hb)⟩
  case traceWr =>
    obtain rfl := eq_effect_of_exec rfl h
    exact ⟨rfl, rfl, rfl, rfl, rfl, rfl, fun _ => rfl⟩

/-! ### The serial operations -/

/-- Settles O58: the registers a serial operation leaves are those its clause of `uartAfter` leaves. -/
theorem serialOperationsFrame : Obligations.SerialOperationsFrame := by
  unfold Obligations.SerialOperationsFrame
  refine ⟨fun i s t d hi h => ?others, fun s t h => ?rdRxdata, fun s t d h => ?wrControl, fun s t d h => ?wrTxdata,
    fun s t d h => ?wrStatus, fun s t d h => ?wrRxdata, fun s t d h => ?receive⟩
  case others =>
    simp only [List.mem_cons, List.not_mem_nil, or_false] at hi
    rcases hi with rfl | rfl | rfl | rfl | rfl | rfl | rfl
    case inr.inr.inr.inr.inr.inr =>
      obtain ⟨-, rfl⟩ := whenUnattached_next.1 h
      exact ⟨rfl, rfl, rfl, rfl, rfl, fun _ => rfl⟩
    all_goals
      obtain rfl := eq_effect_of_exec rfl h
      exact ⟨rfl, rfl, rfl, rfl, rfl, fun _ => rfl⟩
  all_goals obtain rfl := eq_effect_of_exec rfl h
  case rdRxdata => exact ⟨rfl, rfl, rfl, clearRda_above _⟩
  case wrControl =>
    refine ⟨uartAfter_txData _ _, uartAfter_rxData _ _, fun hd => ?_⟩
    have hraw : ¬isMasterReset d = true := fun hm => hd ((isMasterReset_iff d).1 hm)
    show (uartAfter s.uart (.uartWrControl d)).status = s.uart.status
    rw [uartAfter, if_neg hraw]
  case wrTxdata => exact ⟨rfl, rfl, uartRda_setTxe _, setTxe_storage _⟩
  case wrStatus | wrRxdata => exact ⟨rfl, rfl, rfl⟩
  case receive => exact ⟨rfl, rfl, setRda_above _⟩

/-! ### The timer operations -/

/-- Settles O59: the registers a timer operation leaves are those its clause of `timerAfter` leaves. -/
theorem timerOperationsFrame : Obligations.TimerOperationsFrame := by
  unfold Obligations.TimerOperationsFrame
  refine ⟨fun i s t d n hi h => ?others, fun s t d h => ?wrData, fun s t d h => ?wrControl, fun s t h => ?attach,
    fun s t n h => ?advance⟩
  case others =>
    simp only [List.mem_cons, List.not_mem_nil, or_false] at hi
    rcases hi with rfl | rfl | rfl | rfl
    case inr.inr.inr =>
      obtain ⟨-, rfl⟩ := whenUnattached_next.1 h
      exact ⟨rfl, rfl, rfl, rfl, fun _ => rfl⟩
    all_goals
      obtain rfl := eq_effect_of_exec rfl h
      exact ⟨rfl, rfl, rfl, rfl, fun _ => rfl⟩
  case attach =>
    obtain ⟨-, rfl⟩ := whenUnattached_next.1 h
    rfl
  all_goals obtain rfl := eq_effect_of_exec rfl h
  case wrData => exact ⟨rfl, rfl, rfl⟩
  case wrControl =>
    refine ⟨rfl, rfl, fun hd => ?_⟩
    have hkeep : ¬timerPrst d = true := by rw [timerPrst, hd]; exact Bool.false_ne_true
    exact if_neg hkeep
  case advance => exact cycledTimers_control (·.extractLsb' 0 7) setTimerIf_below s.cfg n s.timer

/-! ### Who writes each register -/

section
variable {u : Uart} {t : Timer} {c : Config} {j : Instr}

theorem txData_writer (h : (uartAfter u j).txData ≠ u.txData) :
    ∃ d, j = .uartWrTxdata d ∧ (uartAfter u j).txData = d := by
  rw [uartAfter_txData] at h
  cases j with
  | uartWrTxdata d => exact ⟨d, rfl, rfl⟩
  | _ => exact absurd rfl h

theorem rxData_writer (h : (uartAfter u j).rxData ≠ u.rxData) :
    ∃ d, (j = .uartReceive d ∨ j = .uartWrRxdata d) ∧ (uartAfter u j).rxData = d := by
  rw [uartAfter_rxData] at h
  cases j with
  | uartReceive d => exact ⟨d, .inl rfl, rfl⟩
  | uartWrRxdata d => exact ⟨d, .inr rfl, rfl⟩
  | _ => exact absurd rfl h

theorem timerData_writer (h : (timerAfter c t j).data ≠ t.data) :
    (∃ d, j = .timerWrData d ∧ (timerAfter c t j).data = d) ∨ ∃ n, j = .timerAdvance n := by
  cases j with
  | timerWrData d => exact .inl ⟨d, rfl, rfl⟩
  | timerAdvance n => exact .inr ⟨n, rfl⟩
  | _ => exact absurd rfl h

theorem prescaler_writer (h : (timerAfter c t j).prescaler ≠ t.prescaler) :
    (∃ d, j = .timerWrControl d ∧ d.getLsbD 3 = true) ∨ ∃ n, j = .timerAdvance n := by
  cases j with
  | timerWrControl d => exact .inl ⟨d, rfl, Decidable.byContradiction fun hd => h (if_neg hd)⟩
  | timerAdvance n => exact .inr ⟨n, rfl⟩
  | _ => exact absurd rfl h

theorem cycles_counter {n : Nat} (h : n + cyclesOf j ≠ n) : ∃ m, j = .timerAdvance m := by
  cases j with
  | timerAdvance m => exact ⟨m, rfl⟩
  | _ => exact absurd rfl h

end

/-- Settles O60: each register has its writers among the leaves, and an advance is its own leaf. -/
theorem registerWriters : Obligations.RegisterWriters := by
  unfold Obligations.RegisterWriters
  intro i s t hi h
  obtain rfl := eq_effect_of_exec hi h
  have hadvance : (∃ n, leafOf s.cfg i = .timerAdvance n) → ∃ n, i = .timerAdvance n :=
    fun ⟨n, hn⟩ => ⟨n, leafOf_eq_advance hn⟩
  exact ⟨txData_writer, rxData_writer, fun hne => (timerData_writer hne).imp_right hadvance,
    fun hne => (prescaler_writer hne).imp_right hadvance, fun hne => hadvance (cycles_counter hne)⟩

end Sys2Proof.Machine
end
